-- ==== Sys2Proof/Word.lean ====
section
/-! DEFINITION. The 32-bit word of the host registers and the two fixed-size containers the spec's
indices `k` (converter kind) and 0..3 (tile, block) run over. -/

namespace Sys2Proof

/-- A host register or command word (R20, R80). -/
abbrev Word := BitVec 32

/-- A status code or a signed byte of a result word (R21, R98). -/
abbrev Byte := BitVec 8

/-- Four like things, indices 0..3: the tiles of a kind or the blocks of a tile (`NUM_TILES` = `NUM_BLOCKS` = 4, R6). -/
structure Quad (α : Type) where
  x0 : α
  x1 : α
  x2 : α
  x3 : α
  deriving DecidableEq, Repr

/-- One thing per converter kind, `KIND` = ADC or DAC (R6). -/
structure PerKind (α : Type) where
  adc : α
  dac : α
  deriving DecidableEq, Repr

end Sys2Proof
end

