-- ==== Sys2Proof/Syntax.lean ====
section
/-! DEFINITION. The enumerations of the command interface (R81, R85, R88 to R93) and `Instr`, one
constructor per row of the opcode table (R95). -/

namespace Sys2Proof

/-- Converter kind, command bit [23] (R81). -/
inductive Kind where
  | adc
  | dac
  deriving DecidableEq, Repr

/-- Channel, command bit [17]: the live path or the observation path (R83). -/
inductive Channel where
  | live
  | obs
  deriving DecidableEq, Repr

/-- REAL or IQ: the mixer-mode category of a pair (R141) and the input data type of a block (R30). -/
inductive Category where
  | real
  | iq
  deriving DecidableEq, Repr

/-- Multiband mode (R29, R85). -/
inductive MultiBand where
  | single
  | mb2x
  | mb4x
  deriving DecidableEq, Repr

/-- Mixer type (R88). -/
inductive MixType where
  | off
  | coarse
  | fine
  deriving DecidableEq, Repr

/-- Mixer mode (R89). -/
inductive MixMode where
  | off
  | c2c
  | c2r
  | r2c
  | r2r
  deriving DecidableEq, Repr

/-- Coarse selector: off, bypass, Fs/2, +Fs/4, -Fs/4 (R90). -/
inductive CoarseSel where
  | off
  | bypass
  | fs2
  | fs4
  | mfs4
  deriving DecidableEq, Repr

/-- Event source (R91). -/
inductive EventSrc where
  | immediate
  | slice
  | sysref
  | pl
  | marker
  deriving DecidableEq, Repr

/-- Fine-mixer output-scale selector (R92). -/
inductive MixScale where
  | auto
  | s1p0
  | s0p7
  deriving DecidableEq, Repr

/-- Nyquist zone (R32, R93). -/
inductive Zone where
  | odd
  | even
  deriving DecidableEq, Repr

/-- The decoded command: the opcode and its used fields, each as wide as the word has it (R81, R85).
`t` is the 3-bit tile selector and may hold a reserved value, as may `mb` and `z`: such a command is
decoded and ends with `InvalidArgument` (R82, R85, R94). `WellFormed.lean` says which values are legal. -/
inductive Instr where
  /-- 0x01 INIT (R240) -/
  | init
  /-- 0x02 GET_STATUS (R246) -/
  | getStatus (k : Kind) (t : BitVec 3) (b : Fin 4)
  /-- 0x10 RESTART with the start and end states (R110) -/
  | restart (k : Kind) (t : BitVec 3) (start stop : BitVec 4)
  /-- 0x20 RESOLVE_PAIR with the multiband mode code and the category (R144) -/
  | resolvePair (k : Kind) (t : BitVec 3) (b : Fin 4) (mb : BitVec 2) (cat : Category)
  /-- 0x21 GET_PAIR (R146) -/
  | getPair (k : Kind) (t : BitVec 3) (b : Fin 4)
  /-- 0x30 SET_RATE with the factor number, 0 = OFF (R164) -/
  | setRate (k : Kind) (t : BitVec 3) (b : Fin 4) (ch : Channel) (factor : BitVec 6)
  /-- 0x31 GET_RATE (R175) -/
  | getRate (k : Kind) (t : BitVec 3) (b : Fin 4) (ch : Channel)
  /-- 0x40 SET_MIXER (R190) -/
  | setMixer (k : Kind) (t : BitVec 3) (b : Fin 4)
  /-- 0x41 GET_MIXER (R209) -/
  | getMixer (k : Kind) (t : BitVec 3) (b : Fin 4)
  /-- 0x42 SET_NYQUIST with the zone code (R214) -/
  | setNyquist (k : Kind) (t : BitVec 3) (b : Fin 4) (z : BitVec 2)
  /-- 0x43 GET_NYQUIST (R216) -/
  | getNyquist (k : Kind) (t : BitVec 3) (b : Fin 4)
  deriving DecidableEq, Repr

end Sys2Proof
end

