-- ==== Sys2Proof/WellFormed.lean ====
section
/-! DEFINITION. Which decoded commands carry only legal codes: the tile-selector and immediate checks of
R94, by name. A command that fails one is still an encoding of the machine: it ends with
`InvalidArgument` (R82, R85, R94). -/

namespace Sys2Proof

/-- What a decoded command can hold that R94 refuses. -/
inductive FormProblem where
  /-- `T` in 4..6, or 7 outside RESTART (R82) -/
  | tileSelector
  /-- multiband mode code 3 (R85) -/
  | multiBandCode
  /-- Nyquist zone code 0 or 3 (R85) -/
  | zoneCode
  deriving DecidableEq, Repr

/-- A tile selector that names one tile, 0..3 (R81). -/
def tileSelOk (t : BitVec 3) : Bool := t.toNat < 4

/-- The first R94 check that the command's fields fail, in R94's order: the tile selector before the
immediate. -/
def Instr.formProblem : Instr → Option FormProblem
  | .init => none
  | .getStatus _ t _ => if tileSelOk t then none else some .tileSelector
  | .restart _ t _ _ => if tileSelOk t || t == 7 then none else some .tileSelector
  | .resolvePair _ t _ mb _ =>
    if !tileSelOk t then some .tileSelector else if mb == 3 then some .multiBandCode else none
  | .getPair _ t _ => if tileSelOk t then none else some .tileSelector
  | .setRate _ t _ _ _ => if tileSelOk t then none else some .tileSelector
  | .getRate _ t _ _ => if tileSelOk t then none else some .tileSelector
  | .setMixer _ t _ => if tileSelOk t then none else some .tileSelector
  | .getMixer _ t _ => if tileSelOk t then none else some .tileSelector
  | .setNyquist _ t _ z =>
    if !tileSelOk t then some .tileSelector else if z == 0 || z == 3 then some .zoneCode else none
  | .getNyquist _ t _ => if tileSelOk t then none else some .tileSelector

/-- Every code of the command is legal (R82, R85). -/
def Instr.wf (i : Instr) : Bool := i.formProblem.isNone

end Sys2Proof
end

