-- ==== Sys2Proof/Decode.lean ====
section
/-! DEFINITION. The command word's decoder and encoder, written from the format and opcode tables
(R81, R85, R95, R96). Decoding is total: a word is a command, or it is rejected by name. -/

namespace Sys2Proof

/-- The eleven opcodes of R95. -/
inductive Opcode where
  | init
  | getStatus
  | restart
  | resolvePair
  | getPair
  | setRate
  | getRate
  | setMixer
  | getMixer
  | setNyquist
  | getNyquist
  deriving DecidableEq, Repr

/-- The opcode map (R95). -/
def Opcode.code : Opcode → Byte
  | .init => 0x01
  | .getStatus => 0x02
  | .restart => 0x10
  | .resolvePair => 0x20
  | .getPair => 0x21
  | .setRate => 0x30
  | .getRate => 0x31
  | .setMixer => 0x40
  | .getMixer => 0x41
  | .setNyquist => 0x42
  | .getNyquist => 0x43

/-- The bits that must be 0 (R96). -/
def Opcode.reservedZeroMask : Opcode → Word
  | .init => 0x00FFFFFF
  | .getStatus => 0x0003FFFF
  | .restart => 0x000FF0F0
  | .resolvePair => 0x0003FFEC
  | .getPair => 0x0003FFFF
  | .setRate => 0x0001FFC0
  | .getRate => 0x0001FFFF
  | .setMixer => 0x0003FFFF
  | .getMixer => 0x0003FFFF
  | .setNyquist => 0x0003FFFC
  | .getNyquist => 0x0003FFFF

/-- The opcode a byte stands for; none for every other byte, 0x00 and 0xFF among them (R95, R97). -/
def Opcode.ofCode (c : Byte) : Option Opcode :=
  if c = 0x01 then some .init
  else if c = 0x02 then some .getStatus
  else if c = 0x10 then some .restart
  else if c = 0x20 then some .resolvePair
  else if c = 0x21 then some .getPair
  else if c = 0x30 then some .setRate
  else if c = 0x31 then some .getRate
  else if c = 0x40 then some .setMixer
  else if c = 0x41 then some .getMixer
  else if c = 0x42 then some .setNyquist
  else if c = 0x43 then some .getNyquist
  else none

/-- Why a word is no command of `Instr`. -/
inductive DecodeError where
  /-- an opcode outside R95: the command ends with `IllegalCommand` (R97) -/
  | illegalOpcode
  /-- a nonzero reserved bit of this opcode: `NotInitialized` or `InvalidArgument`, as R94 orders them -/
  | reservedBits (op : Opcode)
  deriving DecidableEq, Repr

/-- `w[lo+n-1:lo]` (R8). -/
def bits (w : Word) (lo n : Nat) : BitVec n := w.extractLsb' lo n

/-- Bit [23] (R81). -/
def kindOf (w : Word) : Kind := if bits w 23 1 = 1 then .dac else .adc

/-- Bits [22:20] (R81). -/
def tileSelOf (w : Word) : BitVec 3 := bits w 20 3

/-- Bits [19:18] (R81). -/
def blockOf (w : Word) : Fin 4 := (bits w 18 2).toFin

/-- Bit [17] (R81). -/
def channelOf (w : Word) : Channel := if bits w 17 1 = 1 then .obs else .live

/-- `IMM[4]` of RESOLVE_PAIR: 0 = REAL, 1 = IQ (R85). -/
def categoryOf (w : Word) : Category := if bits w 4 1 = 1 then .iq else .real

/-- The command of an opcode with the fields of a word (R85, R95). -/
def build (op : Opcode) (w : Word) : Instr :=
  match op with
  | .init => .init
  | .getStatus => .getStatus (kindOf w) (tileSelOf w) (blockOf w)
  | .restart => .restart (kindOf w) (tileSelOf w) (bits w 8 4) (bits w 0 4)
  | .resolvePair => .resolvePair (kindOf w) (tileSelOf w) (blockOf w) (bits w 0 2) (categoryOf w)
  | .getPair => .getPair (kindOf w) (tileSelOf w) (blockOf w)
  | .setRate => .setRate (kindOf w) (tileSelOf w) (blockOf w) (channelOf w) (bits w 0 6)
  | .getRate => .getRate (kindOf w) (tileSelOf w) (blockOf w) (channelOf w)
  | .setMixer => .setMixer (kindOf w) (tileSelOf w) (blockOf w)
  | .getMixer => .getMixer (kindOf w) (tileSelOf w) (blockOf w)
  | .setNyquist => .setNyquist (kindOf w) (tileSelOf w) (blockOf w) (bits w 0 2)
  | .getNyquist => .getNyquist (kindOf w) (tileSelOf w) (blockOf w)

/-- The decoder (R94 to R97): the opcode, then the reserved bits, then the fields. The codes R94 checks
after that are carried in the command and checked, in R94's order, where it runs. -/
def decode (w : Word) : Except DecodeError Instr :=
  match Opcode.ofCode (bits w 24 8) with
  | none => .error .illegalOpcode
  | some op => if w &&& op.reservedZeroMask = 0 then .ok (build op w) else .error (.reservedBits op)

/-- Bit [23] of a kind (R81). -/
def Kind.bit : Kind → BitVec 1
  | .adc => 0
  | .dac => 1

/-- Bit [17] of a channel (R81). -/
def Channel.bit : Channel → BitVec 1
  | .live => 0
  | .obs => 1

/-- The code of a category or data type: 0 = REAL, 1 = IQ (R85, R93). -/
def Category.bit : Category → BitVec 1
  | .real => 0
  | .iq => 1

/-- The opcode of a command (R95). -/
def Instr.opcode : Instr → Opcode
  | .init => .init
  | .getStatus .. => .getStatus
  | .restart .. => .restart
  | .resolvePair .. => .resolvePair
  | .getPair .. => .getPair
  | .setRate .. => .setRate
  | .getRate .. => .getRate
  | .setMixer .. => .setMixer
  | .getMixer .. => .getMixer
  | .setNyquist .. => .setNyquist
  | .getNyquist .. => .getNyquist

/-- `{K, T, B}`, bits [23:18] (R81). -/
def blockField (k : Kind) (t : BitVec 3) (b : Fin 4) : BitVec 6 := k.bit ++ t ++ BitVec.ofFin (w := 2) b

/-- Bits [23:0] of a command's word (R81, R85). -/
def Instr.operandBits : Instr → BitVec 24
  | .init => 0
  | .getStatus k t b => blockField k t b ++ 0#18
  | .restart k t start stop => k.bit ++ t ++ 0#8 ++ start ++ 0#4 ++ stop
  | .resolvePair k t b mb cat => blockField k t b ++ 0#13 ++ cat.bit ++ 0#2 ++ mb
  | .getPair k t b => blockField k t b ++ 0#18
  | .setRate k t b ch factor => blockField k t b ++ ch.bit ++ 0#11 ++ factor
  | .getRate k t b ch => blockField k t b ++ ch.bit ++ 0#17
  | .setMixer k t b => blockField k t b ++ 0#18
  | .getMixer k t b => blockField k t b ++ 0#18
  | .setNyquist k t b z => blockField k t b ++ 0#16 ++ z
  | .getNyquist k t b => blockField k t b ++ 0#18

/-- The command word of a command (R81, R85, R95). -/
def encode (i : Instr) : Word := i.opcode.code ++ i.operandBits

/-- The command the decoder reads from an instruction's bits, numbered as the opcode table numbers them:
one 32-bit word (R80), so the bits above `nbits` are 0. -/
def decodeTableWord (nbits w : Nat) : Option Instr :=
  match decode (BitVec.ofNat 32 (w % 2 ^ nbits)) with
  | .ok i => some i
  | .error _ => none

end Sys2Proof
end

