-- ==== Sys2Proof/Config.lean ====
section
/-! DEFINITION. What an implementation fixes and what the spec leaves free: the parameters of R6, the
inputs of R25 and R245, and the free values (opaque constants, no body) behind them.

The parameters and inputs are plain data that State carries unchanged (`State.par`, `State.inp`), so
that every statement over all states holds for every value of them; the spec's words are "the model
takes it as an argument" (R6). See assumption log entries 1, 2, 3 and 4. -/

namespace Sys2Proof

/-- Clock source of a tile (R29). -/
inductive ClkSrc where
  | external
  | internalPll
  deriving DecidableEq, Repr

/-- DAC datapath mode; NORMAL on an ADC block (R30). -/
inductive DpMode where
  | normal
  | halfBwImr
  | fullBwBypass
  deriving DecidableEq, Repr

/-- Calibration mode: 1, or 2 for every other mode (R32). -/
inductive Cal where
  | mode1
  | mode2
  deriving DecidableEq, Repr

/-- The persisted mixer settings, as the host requested them (R31). -/
structure MixSettings where
  type  : MixType
  mode  : MixMode
  sel   : CoarseSel
  /-- signed 64-bit Hz -/
  freq  : BitVec 64
  /-- signed 32-bit millidegrees -/
  phase : BitVec 32
  evt   : EventSrc
  scale : MixScale
  deriving DecidableEq, Repr

/-- Per-tile record: the same fields in the snapshot (R245) and in the converter's state (R29). -/
structure TileRec where
  /-- sample rate in Hz -/
  fs          : Nat
  clkSrc      : ClkSrc
  /-- opaque (R33) -/
  pllRef      : Nat
  /-- opaque (R33) -/
  pllDiv      : Nat
  /-- opaque (R33) -/
  pllLockSnap : Nat
  nBlocks     : Fin 5
  mb          : MultiBand
  /-- recorded power state, 0..15 -/
  pwr         : Nat
  deriving DecidableEq, Repr

/-- Per-block analog record: the same fields in the snapshot (R245) and in the converter's state (R32). -/
structure AnaRec where
  cal  : Cal
  zone : Zone
  /-- opaque (R33) -/
  qmc  : Nat
  /-- opaque (R33) -/
  cdly : Nat
  deriving DecidableEq, Repr

/-- Per-block digital record of the snapshot; it carries no pair (R242, R245). -/
structure SnapBlk where
  dtype    : Category
  mix      : MixSettings
  rateLive : Nat
  rateObs  : Nat
  dpMode   : DpMode
  deriving DecidableEq, Repr

/-- The static configuration snapshot INIT loads (R245). `badEnum` is true when some enumerated field
of the raw snapshot holds none of its values, which R241(c) refuses; the record's typed fields are then
never read (log entry 3). -/
structure Snapshot where
  gen     : Nat
  badEnum : Bool
  tile    : PerKind (Quad TileRec)
  blk     : PerKind (Quad (Quad SnapBlk))
  ana     : PerKind (Quad (Quad AnaRec))
  deriving DecidableEq, Repr

/-- The inputs of the engine: the port predicates, one value each (R25), and the snapshot (R245). -/
structure Inputs where
  tileEnabled  : PerKind (Quad Bool)
  blockEnabled : PerKind (Quad (Quad Bool))
  dpEnabled    : PerKind (Quad (Quad Bool))
  /-- `IsHighSpeedADC(t)` -/
  hsAdc        : Quad Bool
  snapshot     : Snapshot
  deriving DecidableEq, Repr

/-- One row of an implementation's coarse/fine mixer table `MIXER_ENC` (R204): the keys, then the two
field values. -/
structure MixerRow where
  type   : MixType
  mode   : MixMode
  sel    : CoarseSel
  hs     : Bool
  /-- parity of the physical block: true = odd -/
  odd    : Bool
  coarse : Word
  fine   : Word
  deriving DecidableEq, Repr

/-- The parameters of R6 that are OPEN or have a decided default. -/
structure Params where
  lockMaxRetries : Nat
  clrMaxRetries  : Nat
  cgDelayPow2    : Word
  cgDelayExt     : Word
  cgDelayBits    : Nat
  /-- rows (factor, rate) that replace the default column `FABRIC_RATE_REAL` (R172) -/
  fabricReal     : List (Nat × Nat)
  /-- rows that replace the default mixer table (R205) -/
  mixerRows      : List MixerRow
  coarseBits     : Nat
  fineBits       : Nat
  coarseOff      : Word
  fineOff        : Word
  /-- `HS_ADC_EVENT_SET` (R194) -/
  hsEventSet     : List EventSrc
  /-- `ZONE_FLIP_GENS` (R215) -/
  zoneFlipGens   : List Nat
  /-- `HOST_BASE` (R60, R76): no rule's outcome depends on it -/
  hostBase       : Nat
  deriving DecidableEq, Repr

namespace Config

/-- The tile's answer to the `n`-th poll of `RESTART.GO` or `PLL.LOCKED` that no queued answer covers:
"a draw from ENV ... at every read" (R66(a)). A FREE VALUE (log entry 4). -/
opaque tileAnswer : Nat → Bool

/-- What a converter field the engine has not written since reset holds, by the field's key; cut to the
field's width where it is read: "a draw from ENV fixed at the first read" (R66(b)). A FREE VALUE (log entry 5). -/
opaque fieldDraw : Nat → Word

/-- `LOCK_MAX_RETRIES`, OPEN (R6). -/
opaque lockMaxRetries : Nat

/-- `CLR_MAX_RETRIES`, OPEN (R6). -/
opaque clrMaxRetries : Nat

/-- What `CG_DELAY_BITS` is drawn from: a FREE VALUE. -/
opaque cgBitsDraw : Nat

/-- What `CG_DELAY_EXT` is drawn from: a FREE VALUE. -/
opaque cgExtDraw : Nat

/-- What `CG_DELAY_POW2` is drawn from: a FREE VALUE. -/
opaque cgPow2Draw : Nat

/-- `CG_DELAY_BITS`, OPEN (R174): any width a field of a register can have, 1 to 32 (R62). -/
def cgDelayBits : Nat := 1 + cgBitsDraw % 32

/-- `CG_DELAY_EXT`, OPEN: any value with 0 < `CG_DELAY_EXT` < 2^`CG_DELAY_BITS` (R174). -/
def cgDelayExt : Nat := 1 + cgExtDraw % (2 ^ cgDelayBits - 1)

/-- `CG_DELAY_POW2`, OPEN: any value with `CG_DELAY_POW2` < `CG_DELAY_EXT` (R174). -/
def cgDelayPow2 : Nat := cgPow2Draw % cgDelayExt

/-- `HOST_BASE`, OPEN (R60). -/
opaque hostBase : Nat

/-- `STATE_MAX` = 15, the operational state: "the target implies full operation" (R6, R115). -/
def stateMax : Nat := 15

/-- The parameter values a run from reset has: the free constants where R6 says OPEN with no default,
the decided defaults elsewhere (R6, R172, R194, R204, R205, R215). -/
def params : Params where
  lockMaxRetries := lockMaxRetries
  clrMaxRetries  := clrMaxRetries
  cgDelayPow2    := BitVec.ofNat 32 cgDelayPow2
  cgDelayExt     := BitVec.ofNat 32 cgDelayExt
  cgDelayBits    := cgDelayBits
  fabricReal     := []
  mixerRows      := []
  coarseBits     := 3
  fineBits       := 7
  coarseOff      := 0
  fineOff        := 0
  hsEventSet     := [.immediate, .sysref, .pl]
  zoneFlipGens   := [1, 2]
  hostBase       := hostBase

/-- A tile of the spec's base configuration `S0` (95_test_vectors.md section 0). -/
def s0Tile : TileRec where
  fs := 4000000000
  clkSrc := .external
  pllRef := 0
  pllDiv := 0
  pllLockSnap := 0
  nBlocks := 4
  mb := .single
  pwr := 0

/-- A digital block of `S0`: everything off. -/
def s0Blk : SnapBlk where
  dtype := .real
  mix := { type := .off, mode := .off, sel := .off, freq := 0, phase := 0, evt := .immediate, scale := .auto }
  rateLive := 0
  rateObs := 0
  dpMode := .normal

/-- An analog block of `S0`. -/
def s0Ana : AnaRec where
  cal := .mode2
  zone := .odd
  qmc := 0
  cdly := 0

/-- The snapshot of `S0`: generation 3, every tile and block alike. -/
def s0Snapshot : Snapshot where
  gen := 3
  badEnum := false
  tile := ⟨⟨s0Tile, s0Tile, s0Tile, s0Tile⟩, ⟨s0Tile, s0Tile, s0Tile, s0Tile⟩⟩
  blk :=
    let q : Quad SnapBlk := ⟨s0Blk, s0Blk, s0Blk, s0Blk⟩
    ⟨⟨q, q, q, q⟩, ⟨q, q, q, q⟩⟩
  ana :=
    let q : Quad AnaRec := ⟨s0Ana, s0Ana, s0Ana, s0Ana⟩
    ⟨⟨q, q, q, q⟩, ⟨q, q, q, q⟩⟩

/-- The inputs a run from reset has: `S0` with every tile, block and digital path enabled and no
high-speed tile (95_test_vectors.md section 0). DESIGN CHOICE, log entry 2: the spec takes the inputs
as arguments; no statement rests on this value. -/
def inputs : Inputs where
  tileEnabled := ⟨⟨true, true, true, true⟩, ⟨true, true, true, true⟩⟩
  blockEnabled :=
    let q : Quad Bool := ⟨true, true, true, true⟩
    ⟨⟨q, q, q, q⟩, ⟨q, q, q, q⟩⟩
  dpEnabled :=
    let q : Quad Bool := ⟨true, true, true, true⟩
    ⟨⟨q, q, q, q⟩, ⟨q, q, q, q⟩⟩
  hsAdc := ⟨false, false, false, false⟩
  snapshot := s0Snapshot

end Config

end Sys2Proof
end

