-- ==== Sys2Proof/Machine/State.lean ====
section
/-! DEFINITION. The engine's state as plain data: host registers (R20, R21), sequencer (R22), converter
record (R26 to R33), converter register fields (R38 to R41), poll timer (R270), the queues and records by
which the other agents of R13 act on it, its inputs and parameters; why a step can stop; and reset (R291). -/

namespace Sys2Proof.Machine

/-- Why the machine stops with a fault. -/
inductive Fault where
  /-- Raised by `execRestart` in a walk state (`R_CHECK` to `R_CLEAR`) whose `idx` names no tile, where the
  spec has no rule: R22 bounds `idx` in those states by `lastIdx`, 0..3. SAFE: no run from reset reaches
  it (`Safety.lean`, `State.Inv`; DESIGN CHOICE, log entry 19). -/
  | walkIndex
  deriving DecidableEq, Repr

/-- Why the machine has no step. -/
inductive Refusal where
  /-- An instruction the model gives no meaning. No arm of `exec` answers it. SAFE. -/
  | notModelled (mnemonic : String)
  /-- A host access of a width other than 32 bits or at an offset not a multiple of 4: "not defined by this
  spec; a model refuses it (no step)" (R71). Raised by the host port, never by a command. SAFE. -/
  | undefinedHostAccess
  deriving DecidableEq, Repr

/-- The error names of R260 (code 0, `OK`, is the absence of an error). -/
inductive Err where
  | invalidArgument
  | blockUnavailable
  | tileUnavailable
  | digitalPathDisabled
  /-- in the taxonomy, raised by no rule (R272) -/
  | unsupportedOnSiliconGeneration
  | timeout
  | inconsistentConfiguration
  | invalidFactor
  | unsupportedChannel
  | notInitialized
  | illegalCommand
  deriving DecidableEq, Repr

/-- The two polls of a RESTART (R115, R116). -/
inductive Poll where
  | lock
  | clear
  deriving DecidableEq, Repr

/-- RESTART error information: the tile being visited and, on `Timeout`, the poll (R274). -/
structure FailInfo where
  tile : Fin 4
  poll : Option Poll
  deriving DecidableEq, Repr

/-- The `STATUS` register less its copy of `I.initDone`, which is computed where it is read (R21). -/
structure Status where
  busy          : Bool
  done          : Bool
  overrun       : Bool
  err           : Byte
  failTile      : BitVec 3
  failTileValid : Bool
  timeoutKind   : Bool
  deriving DecidableEq, Repr

/-- The sequencer state `seq` (R22). -/
inductive Seq where
  | idle
  | exec
  | rSelect
  | rCheck
  | rWrite
  | rTrigger
  | rLock
  | rClear
  /-- `END`: results being posted -/
  | posting
  deriving DecidableEq, Repr

/-- `argL`: the operand registers latched at acceptance (R22, R24). -/
structure ArgLatch where
  arg0L : Word
  arg0H : Word
  arg1  : Word
  arg2  : Word
  deriving DecidableEq, Repr

/-- Per-block digital state (R30). A connected block index is absent where the spec writes -1, "none" (log entry 16). -/
structure BlkRec where
  dtype    : Category
  mix      : MixSettings
  rateLive : Nat
  rateObs  : Nat
  connI    : Option (Fin 4)
  connQ    : Option (Fin 4)
  dpMode   : DpMode
  deriving DecidableEq, Repr

/-- The spec's converter record `I` once an INIT has succeeded (R28 to R33). -/
structure Converter where
  gen  : Nat
  tile : PerKind (Quad TileRec)
  blk  : PerKind (Quad (Quad BlkRec))
  ana  : PerKind (Quad (Quad AnaRec))
  deriving DecidableEq, Repr

/-- Per-tile converter fields (R38). -/
inductive TileField where
  | restartStart
  | restartEnd
  | restartGo
  | pllLocked
  deriving DecidableEq, Repr

/-- Per-physical-block converter fields (R39, R40). -/
inductive BlockField where
  | rateFactor (ch : Channel)
  | rateDtype
  | fabricRate (ch : Channel)
  | cgDelay
  | cgSyncEn
  | ncoFreqLow
  | ncoFreqMid
  | ncoFreqUpp
  | ncoPhaseLow
  | ncoPhaseMid
  | ncoPhaseUpp
  | mixCoarse
  | mixFine
  | mixScale
  | mixEvt
  | mixUpdate
  | nyqZone
  deriving DecidableEq, Repr

/-- One copy of a converter field: a per-tile field of (k, t), or a per-block field of (k, t, p) (R60). -/
inductive FieldAddr where
  | tile (f : TileField) (k : Kind) (t : Fin 4)
  | blk (f : BlockField) (k : Kind) (t p : Fin 4)
  deriving DecidableEq, Repr

/-- The converter register space's stored contents: (key of a field's copy, value) in one canonical form,
keys strictly rising, each a field the engine has written since reset. An unlisted field reads as no
value of its own (a free value, R66(b)). The spec gives the space no bytes and no addresses (R61, R62; log entry 15). -/
abbrev Memory := List (Nat × Word)

/-- What the engine does at its register-access port (R63) and with the poll timer (R113), in order. -/
inductive PortEvent where
  /-- a `PortRead` and the value returned -/
  | read (a : FieldAddr) (v : Word)
  /-- a `PortWrite` -/
  | write (a : FieldAddr) (v : Word)
  /-- the one `ClearAndSetMasked` of both restart-state fields (R117) -/
  | writeRestartState (k : Kind) (t : Fin 4) (start stop : Word)
  /-- a `Wait(POLL_PERIOD)` begins -/
  | wait
  deriving DecidableEq, Repr

/-- Log levels; no in-scope rule emits a warning (R275). -/
inductive LogLevel where
  | debug
  | warning
  | error
  deriving DecidableEq, Repr

/-- Log event names (R129, R275). -/
inductive LogName where
  | tileSkipped
  | failed (e : Err)
  deriving DecidableEq, Repr

/-- A log event `(level, name, k, t, b, info)` (R275). -/
structure LogEvent where
  level : LogLevel
  name  : LogName
  k     : Kind
  t     : BitVec 3
  b     : Fin 4
  info  : Option Poll
  deriving DecidableEq, Repr

/-- Width of a host access in bits (R71). -/
inductive AccessWidth where
  | w8
  | w16
  | w32
  | w64
  deriving DecidableEq, Repr

/-- What the outside world does to the engine: a host access at a byte offset of the 64-byte window (R20,
R60), or the platform's reset of the engine, between two engine steps (`reset`) or inside one, after so many
of its port accesses (`resetAmid`; R65, R290). -/
inductive HostInput where
  | write (width : AccessWidth) (offset : BitVec 6) (v : Word)
  | read (width : AccessWidth) (offset : BitVec 6)
  | reset
  | resetAmid (accesses : Nat)
  deriving DecidableEq, Repr

/-- When a queued input lands: after this many engine transitions, or once `STATUS.DONE` = 1 (the
`wait_done` of R102). -/
inductive HostGate where
  | after (n : Nat)
  | done
  deriving DecidableEq, Repr

/-- A queued input with its gate. -/
structure HostEvent where
  gate  : HostGate
  input : HostInput
  deriving DecidableEq, Repr

/-- The machine. -/
structure State where
  /-- `CMD`: the last accepted command word (R20) -/
  cmd     : Word
  status  : Status
  arg0L   : Word
  arg0H   : Word
  arg1    : Word
  arg2    : Word
  res0    : Word
  res1    : Word
  res2    : Word
  res3    : Word
  seq     : Seq
  cmdL    : Word
  argL    : ArgLatch
  /-- current tile, 0..4 (R22) -/
  idx     : Nat
  /-- last tile of the walk, 0..3 (R22) -/
  lastIdx : Nat
  endEff  : BitVec 4
  retry   : Nat
  /-- the poll timer is running: the engine is in a `Wait` (R113, R270) -/
  timer   : Bool
  /-- the converter record; absent (invalid) until an INIT succeeds, so `I.initDone` is its presence (R26, R28) -/
  inst    : Option Converter
  /-- converter register fields the engine has written (R38 to R41) -/
  conv    : Memory
  /-- MODEL'S OWN (log entry 6): inputs not yet taken, next first (R13(1)) -/
  hostIn  : List HostEvent
  /-- MODEL'S OWN (log entry 6): values host reads returned, oldest first -/
  hostOut : List Word
  /-- MODEL'S OWN (log entry 4): the tiles' next answers to polls, next first (R13(3)); when empty a free value answers -/
  tileIn  : List Bool
  /-- MODEL'S OWN (log entry 4): how many free answers have been used -/
  draws   : Nat
  /-- MODEL'S OWN (log entry 13): port accesses and waits so far, oldest first (R63, R67) -/
  port    : List PortEvent
  /-- the log stream so far, oldest first (R275) -/
  log     : List LogEvent
  /-- inputs, fixed for a run (R25, R245) -/
  inp     : Inputs
  /-- parameters, fixed for a run (R6) -/
  par     : Params
  deriving DecidableEq, Repr

/-- Reset: R291's value for every piece of the engine's state, no converter field written, no input queued
and nothing recorded; the inputs and parameters are Config's (DESIGN CHOICE, unsafe: log entries 1 and 2). -/
def State.reset : State where
  cmd := 0
  status := { busy := false, done := true, overrun := false, err := 0, failTile := 0, failTileValid := false, timeoutKind := false }
  arg0L := 0
  arg0H := 0
  arg1 := 0
  arg2 := 0
  res0 := 0
  res1 := 0
  res2 := 0
  res3 := 0
  seq := .idle
  cmdL := 0
  argL := { arg0L := 0, arg0H := 0, arg1 := 0, arg2 := 0 }
  idx := 0
  lastIdx := 0
  endEff := 0
  retry := 0
  timer := false
  inst := none
  conv := []
  hostIn := []
  hostOut := []
  tileIn := []
  draws := 0
  port := []
  log := []
  inp := Config.inputs
  par := Config.params

end Sys2Proof.Machine
end

