-- ==== Sys2Proof/Machine/Flags.lean ====
section
/-! DEFINITION. The status computations: the error codes (R260), the words the host reads at `STATUS`
(R21) and `CAP` (R20), and the numeric codes of the enumerations (R88 to R93). -/

namespace Sys2Proof.Machine

/-- The error numbering (R260). -/
def Err.code : Err → Byte
  | .invalidArgument => 1
  | .blockUnavailable => 2
  | .tileUnavailable => 3
  | .digitalPathDisabled => 4
  | .unsupportedOnSiliconGeneration => 5
  | .timeout => 6
  | .inconsistentConfiguration => 7
  | .invalidFactor => 8
  | .unsupportedChannel => 9
  | .notInitialized => 10
  | .illegalCommand => 11

/-- `TIMEOUT_KIND`: 0 for the lock poll, 1 for the clear poll (R274). -/
def Poll.timeoutKind : Poll → Bool
  | .lock => false
  | .clear => true

/-- One bit of a word. -/
def flag (b : Bool) : BitVec 1 := BitVec.ofBool b

/-- `I.initDone` (R28): the converter record is valid. -/
def State.initDone (s : State) : Bool := s.inst.isSome

/-- The word read at `STATUS` (R21): {0[31:21], TIMEOUT_KIND, FAIL_TILE_VALID, FAIL_TILE, ERR, 0[7:4],
INIT_DONE, OVERRUN, DONE, BUSY}. -/
def statusWord (s : State) : Word :=
  0#11 ++ flag s.status.timeoutKind ++ flag s.status.failTileValid ++ s.status.failTile ++ s.status.err ++ 0#4 ++
    flag s.initDone ++ flag s.status.overrun ++ flag s.status.done ++ flag s.status.busy

/-- The word read at `CAP` (R20): generation in [3:0] and `HS(ADC, t)` in [7:4] once initialised, else 0. -/
def capWord (s : State) : Word :=
  match s.inst with
  | none => 0
  | some c =>
    0#24 ++ flag s.inp.hsAdc.x3 ++ flag s.inp.hsAdc.x2 ++ flag s.inp.hsAdc.x1 ++ flag s.inp.hsAdc.x0 ++ BitVec.ofNat 4 c.gen

/-- Mixer type codes (R88). -/
def typeCode : MixType → BitVec 2
  | .off => 0
  | .coarse => 1
  | .fine => 2

/-- The mixer type of a code; 3 is reserved (R88). -/
def typeOf (c : BitVec 2) : Option MixType :=
  if c = 0 then some .off else if c = 1 then some .coarse else if c = 2 then some .fine else none

/-- Mixer mode codes (R89). -/
def modeCode : MixMode → BitVec 3
  | .off => 0
  | .c2c => 1
  | .c2r => 2
  | .r2c => 3
  | .r2r => 4

/-- The mixer mode of a code; 5..7 are reserved (R89). -/
def modeOf (c : BitVec 3) : Option MixMode :=
  if c = 0 then some .off else if c = 1 then some .c2c else if c = 2 then some .c2r
  else if c = 3 then some .r2c else if c = 4 then some .r2r else none

/-- Coarse selector codes (R90). -/
def selCode : CoarseSel → BitVec 3
  | .off => 0
  | .bypass => 1
  | .fs2 => 2
  | .fs4 => 3
  | .mfs4 => 4

/-- The selector of a code; 5..7 are reserved (R90). -/
def selOf (c : BitVec 3) : Option CoarseSel :=
  if c = 0 then some .off else if c = 1 then some .bypass else if c = 2 then some .fs2
  else if c = 3 then some .fs4 else if c = 4 then some .mfs4 else none

/-- Event source codes (R91). -/
def evtCode : EventSrc → BitVec 3
  | .immediate => 0
  | .slice => 1
  | .sysref => 2
  | .pl => 3
  | .marker => 4

/-- The event source of a code; 5..7 are reserved (R91). -/
def evtOf (c : BitVec 3) : Option EventSrc :=
  if c = 0 then some .immediate else if c = 1 then some .slice else if c = 2 then some .sysref
  else if c = 3 then some .pl else if c = 4 then some .marker else none

/-- Output-scale codes (R92). -/
def scaleCode : MixScale → BitVec 2
  | .auto => 0
  | .s1p0 => 1
  | .s0p7 => 2

/-- The scale of a code; 3 is reserved (R92). -/
def scaleOf (c : BitVec 2) : Option MixScale :=
  if c = 0 then some .auto else if c = 1 then some .s1p0 else if c = 2 then some .s0p7 else none

/-- Nyquist zone codes of commands and results: 1 = ODD, 2 = EVEN (R93). -/
def zoneCode : Zone → BitVec 2
  | .odd => 1
  | .even => 2

/-- The zone of a command's code; 0 and 3 are reserved (R85). -/
def zoneOf (c : BitVec 2) : Option Zone :=
  if c = 1 then some .odd else if c = 2 then some .even else none

/-- The multiband mode of a code; 3 is reserved (R85). -/
def multiBandOf (c : BitVec 2) : Option MultiBand :=
  if c = 0 then some .single else if c = 1 then some .mb2x else if c = 2 then some .mb4x else none

end Sys2Proof.Machine
end

