-- ==== Sys2Proof/Machine/Ops.lean ====
section
/-! DEFINITION. The shared operations: the tables, the stored converter fields, the register-access port,
taking an error and posting an outcome, accepting a command, and the host port. -/

namespace Sys2Proof

/-- The entry of index `i`. -/
def Quad.get {α : Type} (q : Quad α) (i : Fin 4) : α :=
  match i with
  | 0 => q.x0
  | 1 => q.x1
  | 2 => q.x2
  | 3 => q.x3

/-- `q` with the entry of index `i` replaced. -/
def Quad.set {α : Type} (q : Quad α) (i : Fin 4) (a : α) : Quad α :=
  match i with
  | 0 => { q with x0 := a }
  | 1 => { q with x1 := a }
  | 2 => { q with x2 := a }
  | 3 => { q with x3 := a }

/-- The table of a function of the index. -/
def Quad.ofFn {α : Type} (f : Fin 4 → α) : Quad α := ⟨f 0, f 1, f 2, f 3⟩

/-- The entry of a kind. -/
def PerKind.get {α : Type} (p : PerKind α) (k : Kind) : α :=
  match k with
  | .adc => p.adc
  | .dac => p.dac

/-- `p` with the entry of a kind replaced. -/
def PerKind.set {α : Type} (p : PerKind α) (k : Kind) (a : α) : PerKind α :=
  match k with
  | .adc => { p with adc := a }
  | .dac => { p with dac := a }

/-- The table of a function of the kind. -/
def PerKind.ofFn {α : Type} (f : Kind → α) : PerKind α := ⟨f .adc, f .dac⟩

/-! ## Port predicates (R25) -/

/-- `IsTileEnabled(k, t)`. -/
def Inputs.tileOn (i : Inputs) (k : Kind) (t : Fin 4) : Bool := (i.tileEnabled.get k).get t

/-- `IsBlockEnabled(k, t, b)`. -/
def Inputs.blockOn (i : Inputs) (k : Kind) (t b : Fin 4) : Bool := ((i.blockEnabled.get k).get t).get b

/-- `IsDigitalPathEnabled(k, t, b)`. -/
def Inputs.pathOn (i : Inputs) (k : Kind) (t b : Fin 4) : Bool := ((i.dpEnabled.get k).get t).get b

/-- `HS(k, t)`: an ADC tile for which `IsHighSpeedADC` holds; false for every DAC tile (R7). -/
def Inputs.hs (i : Inputs) (k : Kind) (t : Fin 4) : Bool :=
  match k with
  | .adc => i.hsAdc.get t
  | .dac => false

namespace Machine

/-! ## The converter record -/

/-- `I.tile[k][t]` (R29). -/
def Converter.tileAt (c : Converter) (k : Kind) (t : Fin 4) : TileRec := (c.tile.get k).get t

/-- `I.blk[k][t][b]` (R30). -/
def Converter.blkAt (c : Converter) (k : Kind) (t b : Fin 4) : BlkRec := ((c.blk.get k).get t).get b

/-- `I.ana[k][t][b]` (R32). -/
def Converter.anaAt (c : Converter) (k : Kind) (t b : Fin 4) : AnaRec := ((c.ana.get k).get t).get b

/-- `I.tile[k][t] <- r`. -/
def Converter.setTile (c : Converter) (k : Kind) (t : Fin 4) (r : TileRec) : Converter :=
  { c with tile := c.tile.set k ((c.tile.get k).set t r) }

/-- `I.blk[k][t][b] <- r`. -/
def Converter.setBlk (c : Converter) (k : Kind) (t b : Fin 4) (r : BlkRec) : Converter :=
  { c with blk := c.blk.set k ((c.blk.get k).set t (((c.blk.get k).get t).set b r)) }

/-- `I.ana[k][t][b] <- r`. -/
def Converter.setAna (c : Converter) (k : Kind) (t b : Fin 4) (r : AnaRec) : Converter :=
  { c with ana := c.ana.set k ((c.ana.get k).set t (((c.ana.get k).get t).set b r)) }

/-- The persisted rate factor of a channel (R30). -/
def BlkRec.rate (r : BlkRec) (ch : Channel) : Nat :=
  match ch with
  | .live => r.rateLive
  | .obs => r.rateObs

/-- `rate[ch] <- f` (R30). -/
def BlkRec.setRate (r : BlkRec) (ch : Channel) (f : Nat) : BlkRec :=
  match ch with
  | .live => { r with rateLive := f }
  | .obs => { r with rateObs := f }

/-! ## The stored converter fields -/

/-- The stored value of a key, if the engine has written it. -/
def Memory.lookup : Memory → Nat → Option Word
  | [], _ => none
  | (a, v) :: rest, key => if key = a then some v else if key < a then none else Memory.lookup rest key

/-- Store a value under a key, keeping the keys strictly rising. -/
def Memory.store : Memory → Nat → Word → Memory
  | [], key, v => [(key, v)]
  | (a, u) :: rest, key, v =>
    if key = a then (a, v) :: rest
    else if key < a then (key, v) :: (a, u) :: rest
    else (a, u) :: Memory.store rest key v

/-- Every key is above `lo` and the keys strictly rise. -/
def Memory.risingAbove : Nat → Memory → Bool
  | _, [] => true
  | lo, (a, _) :: rest => lo < a && Memory.risingAbove a rest

/-- The canonical form: keys strictly rising. (An unlisted field reads as no value, so no entry can
equal what an unlisted one reads as.) -/
def Memory.wf : Memory → Bool
  | [] => true
  | (a, _) :: rest => Memory.risingAbove a rest

/-! ## Field keys and widths -/

/-- 0 or 1. -/
def Kind.index : Kind → Nat
  | .adc => 0
  | .dac => 1

/-- A number for each per-tile field. -/
def TileField.index : TileField → Nat
  | .restartStart => 0
  | .restartEnd => 1
  | .restartGo => 2
  | .pllLocked => 3

/-- A number for each per-block field, above the per-tile ones. -/
def BlockField.index : BlockField → Nat
  | .rateFactor .live => 4
  | .rateFactor .obs => 5
  | .rateDtype => 6
  | .fabricRate .live => 7
  | .fabricRate .obs => 8
  | .cgDelay => 9
  | .cgSyncEn => 10
  | .ncoFreqLow => 11
  | .ncoFreqMid => 12
  | .ncoFreqUpp => 13
  | .ncoPhaseLow => 14
  | .ncoPhaseMid => 15
  | .ncoPhaseUpp => 16
  | .mixCoarse => 17
  | .mixFine => 18
  | .mixScale => 19
  | .mixEvt => 20
  | .mixUpdate => 21
  | .nyqZone => 22

/-- The key of a field's copy: injective; its order means nothing (REGMAP is not given, R62). -/
def FieldAddr.key : FieldAddr → Nat
  | .tile f k t => ((f.index * 2 + Kind.index k) * 4 + t.val) * 4
  | .blk f k t p => ((f.index * 2 + Kind.index k) * 4 + t.val) * 4 + p.val

/-- `width(f)` (R38 to R40); three widths are parameters. -/
def FieldAddr.width (par : Params) : FieldAddr → Nat
  | .tile .restartStart _ _ => 8
  | .tile .restartEnd _ _ => 8
  | .tile .restartGo _ _ => 1
  | .tile .pllLocked _ _ => 1
  | .blk (.rateFactor _) _ _ _ => 6
  | .blk .rateDtype _ _ _ => 1
  | .blk (.fabricRate _) _ _ _ => 4
  | .blk .cgDelay _ _ _ => par.cgDelayBits
  | .blk .cgSyncEn _ _ _ => 1
  | .blk .ncoFreqLow _ _ _ => 16
  | .blk .ncoFreqMid _ _ _ => 16
  | .blk .ncoFreqUpp _ _ _ => 16
  | .blk .ncoPhaseLow _ _ _ => 16
  | .blk .ncoPhaseMid _ _ _ => 16
  | .blk .ncoPhaseUpp _ _ _ => 16
  | .blk .mixCoarse _ _ _ => par.coarseBits
  | .blk .mixFine _ _ _ => par.fineBits
  | .blk .mixScale _ _ _ => 2
  | .blk .mixEvt _ _ _ => 3
  | .blk .mixUpdate _ _ _ => 1
  | .blk .nyqZone _ _ _ => 1

/-- The fields whose stored content no read returns: the tile drives `RESTART.GO` and `PLL.LOCKED` (R66(a)),
and `MIX.UPDATE` is a pulse that reads 0 (R40, R206; DEDUCED, log entry 14). -/
def FieldAddr.notHeld : FieldAddr → Bool
  | .tile .restartGo _ _ => true
  | .tile .pllLocked _ _ => true
  | .blk .mixUpdate _ _ _ => true
  | _ => false

/-- The low `n` bits of a value, in 32 bits. -/
def lowBits (n : Nat) (v : Word) : Word := BitVec.ofNat 32 (v.toNat % 2 ^ n)

/-! ## The register-access port -/

/-- `ReadRegister_W` of a register with content `c` (R63). -/
def readRegister {w : Nat} (c : BitVec w) : BitVec w := c

/-- `WriteRegister_W`: the content after a write of `v`, its low W bits (R63). -/
def writeRegister (w : Nat) {n : Nat} (v : BitVec n) : BitVec w := v.setWidth w

/-- `ReadMasked` over a register content (R63). -/
def readMasked {w : Nat} (c m : BitVec w) : BitVec w := c &&& m

/-- `ClearAndSetMasked` over a register content (R63). -/
def clearAndSetMasked {w : Nat} (c m v : BitVec w) : BitVec w := (c &&& ~~~m) ||| (v &&& m)

/-- The mask of a field of `n` bits at `shift` (R63). -/
def fieldMask (w n shift : Nat) : BitVec w := BitVec.ofNat w (2 ^ n - 1) <<< shift

/-- `PortRead` of a field inside a register content (R63). -/
def regFieldRead {w : Nat} (n shift : Nat) (c : BitVec w) : BitVec w := readMasked c (fieldMask w n shift) >>> shift

/-- `PortWrite` of a field inside a register content (R63). -/
def regFieldWrite {w : Nat} (n shift : Nat) (c v : BitVec w) : BitVec w :=
  clearAndSetMasked c (fieldMask w n shift) (v <<< shift)

/-- Record a port event. -/
def record (e : PortEvent) (s : State) : State := { s with port := s.port ++ [e] }

/-- What a read of a held field returns: the last value written, or the field's free value cut to its width
(R41, R66(b)); `MIX.UPDATE` reads 0 (R40). -/
def fieldValue (a : FieldAddr) (s : State) : Word :=
  match a with
  | .blk .mixUpdate _ _ _ => 0
  | a =>
    match Memory.lookup s.conv a.key with
    | some v => v
    | none => lowBits (a.width s.par) (Config.fieldDraw a.key)

/-- `PortRead` of a held field: the access is recorded; nothing else changes (R73). -/
def portRead (a : FieldAddr) (s : State) : State := record (.read a (fieldValue a s)) s

/-- The contents after a `PortWrite`: the low `width(f)` bits (R63), stored unless the field is not held. -/
def writtenConv (par : Params) (m : Memory) (a : FieldAddr) (v : Word) : Memory :=
  if a.notHeld then m else Memory.store m a.key (lowBits (a.width par) v)

/-- `PortWrite` (R63). -/
def portWrite (a : FieldAddr) (v : Word) (s : State) : State :=
  record (.write a v) { s with conv := writtenConv s.par s.conv a v }

/-- `PortRead`s in list order (R67). -/
def portReads : List FieldAddr → State → State
  | [], s => s
  | a :: rest, s => portReads rest (portRead a s)

/-- `PortWrite`s in list order (R67). -/
def portWrites : List (FieldAddr × Word) → State → State
  | [], s => s
  | (a, v) :: rest, s => portWrites rest (portWrite a v s)

/-- The contents after `PortWrite`s in list order. -/
def writtenAll (par : Params) : Memory → List (FieldAddr × Word) → Memory
  | m, [] => m
  | m, (a, v) :: rest => writtenAll par (writtenConv par m a v) rest

/-- `PortWriteBoth(RESTART_STATE, k, t, START, END)`: both fields in one access (R117). -/
def portWriteRestartState (k : Kind) (t : Fin 4) (start stop : BitVec 4) (s : State) : State :=
  record (.writeRestartState k t (start.setWidth 32) (stop.setWidth 32))
    { s with
      conv :=
        writtenConv s.par (writtenConv s.par s.conv (.tile .restartStart k t) (start.setWidth 32))
          (.tile .restartEnd k t) (stop.setWidth 32) }

/-- The tile's answer to the next poll: the next queued one, else a free value (R66(a)). -/
def nextAnswer (s : State) : Bool :=
  match s.tileIn with
  | b :: _ => b
  | [] => Config.tileAnswer s.draws

/-- The state after a poll of `RESTART.GO` or `PLL.LOCKED`: the answer is used up and the read recorded. -/
def poll (f : TileField) (k : Kind) (t : Fin 4) (s : State) : State :=
  let read : PortEvent := .read (.tile f k t) ((flag (nextAnswer s)).setWidth 32)
  match s.tileIn with
  | _ :: rest => record read { s with tileIn := rest }
  | [] => record read { s with draws := s.draws + 1 }

/-! ## Ending a command -/

/-- Emit a log event (R275). -/
def emit (e : LogEvent) (s : State) : State := { s with log := s.log ++ [e] }

/-- Posting a success, one step: `ERR` = OK, the RESTART fields 0, `DONE`, not `BUSY`, `IDLE` (R23, R123). The
command's own results are already in `RES0..RES3`; no wait is running (R270). -/
def postOk (s : State) : State :=
  { s with
    seq := .idle
    timer := false
    status := { s.status with busy := false, done := true, err := 0, failTile := 0, failTileValid := false, timeoutKind := false } }

/-- The `ERROR` event of a failed command (R129, R275); its k, t and b are a DESIGN CHOICE (log entry 26). -/
def errorEvent (e : Err) (info : Option FailInfo) (w : Word) : LogEvent where
  level := .error
  name := .failed e
  k := kindOf w
  t := match info with
    | some i => BitVec.ofFin (w := 3) (Fin.castLE (by decide) i.tile)
    | none => tileSelOf w
  b := blockOf w
  info := info.bind (·.poll)

/-- TAKING AN ERROR, the engine's only exception: `raise E(info)` ends the command, posting in one step
`ERR`, the RESTART information, `DONE`, not `BUSY` and `IDLE`; no result register is written (R261, R274). There
is no vector, no saved state and no return: the next accepted command clears it (R265, R266). -/
def raise (e : Err) (info : Option FailInfo) (s : State) : State :=
  emit (errorEvent e info s.cmdL)
    { s with
      seq := .idle
      timer := false
      status :=
        { s.status with
          busy := false
          done := true
          err := e.code
          failTile := match info with
            | some i => BitVec.ofFin (w := 3) (Fin.castLE (by decide) i.tile)
            | none => 0
          failTileValid := info.isSome
          timeoutKind := match info.bind (·.poll) with
            | some p => p.timeoutKind
            | none => false } }

/-- The outcome of a command's rule: the state it leaves, or the error it raises from the state it started in
(R263: nothing but the posting has changed). -/
def finish (s : State) (r : Except Err State) : Host.Outcome State Fault Refusal :=
  match r with
  | .ok t => .next t
  | .error e => .next (raise e none s)

/-- `if not c: raise e`. -/
def check (c : Bool) (e : Err) : Except Err Unit := if c then .ok () else .error e

/-! ## Decode checks (R94) -/

/-- The error a rejected word ends with: the opcode first, then initialisation (of every command but INIT),
then the reserved bits (R94). -/
def decodeErr (e : DecodeError) (s : State) : Err :=
  match e with
  | .illegalOpcode => .illegalCommand
  | .reservedBits op => if op ≠ .init ∧ s.initDone = false then .notInitialized else .invalidArgument

/-- The tile a selector names, 0..3 (R81). -/
def tileOf (t : BitVec 3) : Option (Fin 4) := if h : t.toNat < 4 then some ⟨t.toNat, h⟩ else none

/-- The converter record, or `NotInitialized` (R26, R94). -/
def initialised (s : State) : Except Err Converter :=
  match s.inst with
  | some c => .ok c
  | none => .error .notInitialized

/-- The tile of a selector that must name one, or `InvalidArgument` (R82, R94). -/
def oneTile (t : BitVec 3) : Except Err (Fin 4) :=
  match tileOf t with
  | some n => .ok n
  | none => .error .invalidArgument

/-- Run a command on one tile after the decode checks of R94 that a decoded word can still fail: `NotInitialized`,
then the tile selector. -/
def onTile (s : State) (t : BitVec 3) (rule : Converter → Fin 4 → Except Err State) : Except Err State :=
  match initialised s with
  | .error e => .error e
  | .ok c =>
    match oneTile t with
    | .error e => .error e
    | .ok n => rule c n

/-- The availability checks, in order: tile, block, digital path (R163, R191). -/
def available (i : Inputs) (k : Kind) (t b : Fin 4) : Except Err Unit :=
  if i.tileOn k t = false then .error .tileUnavailable
  else if i.blockOn k t b = false then .error .blockUnavailable
  else if i.pathOn k t b = false then .error .digitalPathDisabled
  else .ok ()

/-- As `onTile`, for a command that also makes the availability checks. -/
def onBlock (s : State) (k : Kind) (t : BitVec 3) (b : Fin 4) (rule : Converter → Fin 4 → Except Err State) : Except Err State :=
  onTile s t fun c n =>
    match available s.inp k n b with
    | .error e => .error e
    | .ok () => rule c n

/-! ## Accepting a command (R24) -/

/-- The first and last tile of a walk: `T` itself, or 0 to 3 for "all" (R111, R112). -/
def walkRange (t : BitVec 3) : Nat × Nat := if t = 7 then (0, 3) else (t.toNat, t.toNat)

/-- RESTART's `start:` line (R112). -/
def startWalk (t : BitVec 3) (s : State) : State :=
  { s with idx := (walkRange t).1, lastIdx := (walkRange t).2, seq := .rSelect }

/-- The word is a RESTART that passes every decode check of R94: only then does RESTART's rule begin (R84, R97). -/
def startsWalk (w : Word) (s : State) : Bool :=
  match decode w with
  | .ok i => i.opcode == .restart && s.initDone && i.wf
  | .error _ => false

/-- Decode, then enter the command's first state: the walk for a RESTART that passes the decode checks, `EXEC` for every
other word (R22, R24). A word that fails a check changes nothing here, and its error is posted by the step out of `EXEC`
(DEDUCED, log entry 9). -/
def enter (w : Word) (s : State) : State := if startsWalk w s then startWalk (tileSelOf w) s else { s with seq := .exec }

/-- The latching of an accepted `CMD` write (R24). -/
def latch (w : Word) (s : State) : State :=
  { s with
    cmdL := w
    argL := { arg0L := s.arg0L, arg0H := s.arg0H, arg1 := s.arg1, arg2 := s.arg2 }
    cmd := w
    res0 := 0
    res1 := 0
    res2 := 0
    res3 := 0
    status := { busy := true, done := false, overrun := false, err := 0, failTile := 0, failTileValid := false, timeoutKind := false } }

/-- Command acceptance, one step (R24). -/
def accept (w : Word) (s : State) : State := enter w (latch w s)

/-! ## The host port (R20, R71) -/

/-- Only aligned 32-bit accesses are defined (R71). -/
def accessDefined (width : AccessWidth) (offset : BitVec 6) : Bool := width == .w32 && offset.toNat % 4 == 0

/-- A host write of a register (R20, R24): `CMD` is accepted when `IDLE`, else it sets `OVERRUN` and nothing
else; a write to a read-only or unlisted offset has no effect. -/
def writeReg (offset : BitVec 6) (v : Word) (s : State) : State :=
  if offset = 0x00 then
    if s.seq = .idle then accept v s else { s with status := { s.status with overrun := true } }
  else if offset = 0x08 then { s with arg0L := v }
  else if offset = 0x0C then { s with arg0H := v }
  else if offset = 0x10 then { s with arg1 := v }
  else if offset = 0x14 then { s with arg2 := v }
  else s

/-- The value a host read returns; an unlisted offset reads 0 (R20). -/
def readReg (offset : BitVec 6) (s : State) : Word :=
  if offset = 0x00 then s.cmd
  else if offset = 0x04 then statusWord s
  else if offset = 0x08 then s.arg0L
  else if offset = 0x0C then s.arg0H
  else if offset = 0x10 then s.arg1
  else if offset = 0x14 then s.arg2
  else if offset = 0x18 then s.res0
  else if offset = 0x1C then s.res1
  else if offset = 0x20 then s.res2
  else if offset = 0x24 then s.res3
  else if offset = 0x28 then capWord s
  else 0

/-- The bus address of a window offset, `HOST_BASE` + offset (R60, R76; log entry 24). -/
def busAddress (par : Params) (offset : BitVec 6) : Nat := par.hostBase + offset.toNat

/-- Engine reset: R291's value for every piece of the engine's own state, the running command abandoned without
posting; the converter fields keep their contents (R290), and what is outside the engine is untouched. -/
def engineReset (s : State) : State :=
  { State.reset with
    conv := s.conv
    hostIn := s.hostIn
    hostOut := s.hostOut
    tileIn := s.tileIn
    draws := s.draws
    port := s.port
    log := s.log
    inp := s.inp
    par := s.par }

/-- The contents after the port accesses of a list, in order (R67). -/
def replayed (par : Params) : Memory → List PortEvent → Memory
  | m, [] => m
  | m, .write a v :: rest => replayed par (writtenConv par m a v) rest
  | m, .writeRestartState k t start stop :: rest =>
    replayed par (writtenConv par (writtenConv par m (.tile .restartStart k t) start) (.tile .restartEnd k t) stop) rest
  | m, .read _ _ :: rest => replayed par m rest
  | m, .wait :: rest => replayed par m rest

/-- The first `n` port accesses of the engine step from `s` to `t`. -/
def firstAccesses (n : Nat) (s t : State) : List PortEvent := (t.port.drop s.port.length).take n

/-- `s` with only the first `n` port accesses of the step from `s` to `t` made (R65): an answer of the tile is used up
only by a poll that was made. -/
def partialStep (n : Nat) (s t : State) : State :=
  let made := firstAccesses n s t
  { s with
    conv := replayed s.par s.conv made
    port := s.port ++ made
    tileIn := if made = [] then s.tileIn else t.tileIn
    draws := if made = [] then s.draws else t.draws }

/-- Whose turn the next transition is: the host's, with its input taken from the queue, or the engine's, with one
engine transition counted against the queued input's gate (log entry 6). -/
def turn (s : State) : Option HostInput × State :=
  match s.hostIn with
  | [] => (none, s)
  | e :: rest =>
    match e.gate with
    | .after 0 => (some e.input, { s with hostIn := rest })
    | .after (n + 1) => (none, { s with hostIn := { gate := .after n, input := e.input } :: rest })
    | .done => if s.status.done then (some e.input, { s with hostIn := rest }) else (none, s)

end Machine

end Sys2Proof
end

