-- ==== Sys2Proof/Machine/Operands.lean ====
section
/-! DEFINITION. The operand forms: the latched wide operands (R86), the settings word (R87), and the
logical-to-physical block map with the span of a per-block write (R36, R37). -/

namespace Sys2Proof.Machine

/-- The settings of a settings word (R87). -/
structure Settings where
  type  : MixType
  mode  : MixMode
  sel   : CoarseSel
  evt   : EventSrc
  scale : MixScale
  deriving DecidableEq, Repr

/-- The fields of a settings word, or none when a code is reserved or a reserved bit is set (R87, R192). -/
def settingsOf (w : Word) : Option Settings :=
  if bits w 13 19 ≠ 0 then none
  else
    match typeOf (bits w 0 2), modeOf (bits w 2 3), selOf (bits w 5 3), evtOf (bits w 8 3), scaleOf (bits w 11 2) with
    | some ty, some md, some sl, some ev, some sc => some { type := ty, mode := md, sel := sl, evt := ev, scale := sc }
    | _, _, _, _, _ => none

/-- The settings word of settings (R87). -/
def settingsWord (x : Settings) : Word :=
  0#19 ++ scaleCode x.scale ++ evtCode x.evt ++ selCode x.sel ++ modeCode x.mode ++ typeCode x.type

/-- `freq`, signed 64-bit Hz, of the latched operands (R86). -/
def freqArg (a : ArgLatch) : BitVec 64 := a.arg0H ++ a.arg0L

/-- `phase`, signed 32-bit millidegrees, of the latched operands (R86). -/
def phaseArg (a : ArgLatch) : BitVec 32 := a.arg1

/-- `IQPAIRED(k, t, b)` (R36). -/
def iqPaired (c : Converter) (k : Kind) (t b : Fin 4) : Bool := (c.blkAt k t b).connQ.isSome

/-- `phys(k, t, b)`, the physical block a logical block addresses (R36). -/
def phys (i : Inputs) (c : Converter) (k : Kind) (t b : Fin 4) : Fin 4 :=
  if i.hs k t = false then b
  else if b.val % 2 = 0 then b
  else if iqPaired c k t b then b
  else 2

/-- `span(k, t, b)`, the physical blocks a per-block write reaches, in order (R37). -/
def span (i : Inputs) (c : Converter) (k : Kind) (t b : Fin 4) : List (Fin 4) :=
  let q := phys i c k t b
  if i.hs k t = false then [q]
  else if q.val % 2 = 0 then [q, q + 1]
  else [q]

/-- One field's writes over a span, in span order (R37). -/
def spanWrites (f : BlockField) (v : Word) (k : Kind) (t : Fin 4) (ps : List (Fin 4)) : List (FieldAddr × Word) :=
  ps.map fun p => (FieldAddr.blk f k t p, v)

end Sys2Proof.Machine
end

