-- ==== Sys2Proof/Machine/Pairing.lean ====
section
/-! DEFINITION. The multiband I/Q block-pairing resolver: the lookup, RESOLVE_PAIR and GET_PAIR (42_pairing.md). -/

namespace Sys2Proof.Machine

/-- `CAT(k, mode)`: IQ when the fabric side of the block carries I/Q samples (R141). -/
def category (k : Kind) (mode : MixMode) : Category :=
  match mode with
  | .c2c => .iq
  | .r2c => match k with
    | .adc => .iq
    | .dac => .real
  | .c2r => match k with
    | .adc => .real
    | .dac => .iq
  | .r2r => .real
  | .off => .real

/-- `SLICES(k, t)` (R142). -/
def slices (i : Inputs) (k : Kind) (t : Fin 4) : Nat := if i.hs k t then 2 else 4

/-- `2*floor(b/2)`: the first block of b's group. -/
def groupFirst (b : Fin 4) : Fin 4 := if b.val < 2 then 0 else 2

/-- `PAIR(cat, mb, b, slices)` = (connI, connQ); absent is -1 (R143). -/
def pair (cat : Category) (mb : MultiBand) (b : Fin 4) (sl : Nat) : Option (Fin 4) × Option (Fin 4) :=
  match cat, mb with
  | .real, .single => (some b, none)
  | .real, .mb2x => (some (groupFirst b), none)
  | .real, .mb4x => (some 0, none)
  | .iq, .single => (some (groupFirst b), some (groupFirst b + 1))
  | .iq, .mb2x => (some (groupFirst b), some (groupFirst b + 1))
  | .iq, .mb4x => if sl = 4 then (some 0, some 1) else (some 0, some 2)

/-- A connected block index as 8-bit two's complement, -1 for none (R98). -/
def connByte (x : Option (Fin 4)) : Byte :=
  match x with
  | some b => BitVec.ofNat 8 b.val
  | none => 0xFF

/-- `RES0` of a pair: [7:0] connI, [15:8] connQ (R98). -/
def pairWord (p : Option (Fin 4) × Option (Fin 4)) : Word := 0#16 ++ connByte p.2 ++ connByte p.1

/-- RESOLVE_PAIR's rule once the decode checks of the tile have passed (R144). -/
def resolvePairRule (k : Kind) (b : Fin 4) (mb : BitVec 2) (cat : Category) (s : State) (c : Converter) (t : Fin 4) :
    Except Err State :=
  match multiBandOf mb with
  | none => .error .invalidArgument
  | some m =>
    let p := pair cat m b (slices s.inp k t)
    .ok (postOk { s with
      inst := some (c.setBlk k t b { c.blkAt k t b with connI := p.1, connQ := p.2 })
      res0 := pairWord p })

/-- RESOLVE_PAIR (R144): writes block b's pair and posts it; no availability check and no port access. -/
def execResolvePair (k : Kind) (t : BitVec 3) (b : Fin 4) (mb : BitVec 2) (cat : Category) (s : State) :
    Host.Outcome State Fault Refusal :=
  finish s (onTile s t (resolvePairRule k b mb cat s))

/-- GET_PAIR (R146): posts block b's pair. -/
def execGetPair (k : Kind) (t : BitVec 3) (b : Fin 4) (s : State) : Host.Outcome State Fault Refusal :=
  finish s (onTile s t fun c n =>
    .ok (postOk { s with res0 := pairWord ((c.blkAt k n b).connI, (c.blkAt k n b).connQ) }))

end Sys2Proof.Machine
end

