-- ==== Sys2Proof/Machine/Rate.lean ====
section
/-! DEFINITION. The rate-factor and FIFO-width engine: codes, fabric rates, the recomputation, SET_RATE and
GET_RATE (43_rate_fifo.md). -/

namespace Sys2Proof.Machine

/-- `FACTORS`, OFF = 0 (R160). -/
def factors : List Nat := [0, 1, 2, 3, 4, 5, 6, 8, 10, 12, 16, 20, 24, 40]

/-- `POW2`, the power-of-two factors (R160). -/
def pow2Factors : List Nat := [1, 2, 4, 8, 16]

/-- `LEGAL(f, g)` (R160). -/
def legalFactor (f g : Nat) : Bool := factors.contains f && (decide (3 ≤ g) || [0, 1, 2, 4, 8].contains f)

/-- `CODE(f, g)` of a legal factor: the factor itself, with 4× and 8× as 3 and 4 before generation 3 (R161). -/
def factorCode (f g : Nat) : Nat := if 3 ≤ g then f else if f = 4 then 3 else if f = 8 then 4 else f

/-- `DECODE(c, g)` (R161). -/
def factorDecode (c g : Nat) : Option Nat :=
  if 3 ≤ g then (if factors.contains c then some c else none)
  else if c = 3 then some 4
  else if c = 4 then some 8
  else if c ≤ 2 then some c
  else none

/-- `FABRIC_RATE_IQHS(f, hs)`: 8, 4, 2, then 1 on a standard and 2 on a high-speed path (R169). -/
def fabricRateIqHs (f : Nat) (hs : Bool) : Nat :=
  if f = 1 then 8 else if f ≤ 3 then 4 else if f ≤ 6 then 2 else if hs then 2 else 1

/-- The decided default column of `FABRIC_RATE_REAL` (R169, R172). -/
def fabricRateRealDefault (f : Nat) : Nat := if f = 1 then 4 else if f ≤ 3 then 2 else 1

/-- `FABRIC_RATE_REAL(f)`: the implementation's value, else the default's (R172). -/
def fabricRateReal (par : Params) (f : Nat) : Nat :=
  match par.fabricReal.find? (fun r => r.1 == f) with
  | some r => r.2
  | none => fabricRateRealDefault f

/-- `FIFO_W(f, dt, hs)` (R169). -/
def fifoWidth (par : Params) (f : Nat) (dt : Category) (hs : Bool) : Nat :=
  if f = 0 then 0
  else if dt = .iq ∨ hs = true then fabricRateIqHs f hs
  else fabricRateReal par f

/-- The data type of a `RATE_CFG.DTYPE` value: 0 = REAL, 1 = IQ (R39). -/
def dtypeOf (v : Word) : Category := if v = 1 then .iq else .real

/-- The width the recomputation writes, from the fields of the physical block; none when the factor code has
no decode (R168, R171). -/
def recomputedWidth (c : Converter) (k : Kind) (t b : Fin 4) (ch : Channel) (s : State) : Option Nat :=
  let p := phys s.inp c k t b
  match factorDecode (fieldValue (.blk (.rateFactor ch) k t p) s).toNat c.gen with
  | none => none
  | some f => some (fifoWidth s.par f (dtypeOf (fieldValue (.blk .rateDtype k t p) s)) (s.inp.hs k t))

/-- The recomputation's writes: the width over the span, or none (R168, R171). -/
def recomputeWrites (c : Converter) (k : Kind) (t b : Fin 4) (ch : Channel) (s : State) : List (FieldAddr × Word) :=
  match recomputedWidth c k t b ch s with
  | none => []
  | some w => spanWrites (.fabricRate ch) (BitVec.ofNat 32 w) k t (span s.inp c k t b)

/-- The fields the recomputation reads, in order (R168). -/
def recomputeReads (c : Converter) (k : Kind) (t b : Fin 4) (ch : Channel) (s : State) : List FieldAddr :=
  let p := phys s.inp c k t b
  [.blk (.rateFactor ch) k t p, .blk .rateDtype k t p]

/-- `FIFO_RECOMPUTE(k, t, b, ch)` (R168): two reads, then the width over the span; it never fails. -/
def fifoRecompute (c : Converter) (k : Kind) (t b : Fin 4) (ch : Channel) (s : State) : State :=
  portWrites (recomputeWrites c k t b ch s) (portReads (recomputeReads c k t b ch s) s)

/-- `ch = OBS` needs an ADC of generation 3 or later (R162). -/
def channelOk (k : Kind) (ch : Channel) (g : Nat) : Bool :=
  match ch with
  | .live => true
  | .obs => k == .adc && decide (3 ≤ g)

/-- The clock-gating delay of a factor (R173). -/
def cgDelayFor (par : Params) (f : Nat) : Word := if pow2Factors.contains f then par.cgDelayPow2 else par.cgDelayExt

/-- The clock-gating writes: delay, then sync-enable, over the span; on generation 3 and later, for a factor
other than OFF (R173). -/
def cgWrites (par : Params) (g f : Nat) (k : Kind) (t : Fin 4) (ps : List (Fin 4)) : List (FieldAddr × Word) :=
  if 3 ≤ g ∧ f ≠ 0 then spanWrites .cgDelay (cgDelayFor par f) k t ps ++ spanWrites .cgSyncEn 1 k t ps else []

/-- SET_RATE's effect after its checks, before posting (R164). -/
def setRateEffect (k : Kind) (t b : Fin 4) (ch : Channel) (f : Nat) (c : Converter) (s : State) : State :=
  let ps := span s.inp c k t b
  let s1 := portWrites (spanWrites (.rateFactor ch) (BitVec.ofNat 32 (factorCode f c.gen)) k t ps) s
  let s2 := { s1 with inst := some (c.setBlk k t b ((c.blkAt k t b).setRate ch f)) }
  let s3 := fifoRecompute c k t b ch s2
  portWrites (cgWrites s.par c.gen f k t ps) s3

/-- SET_RATE's rule after the availability checks: channel, then factor, then the effect (R164). -/
def setRateRule (k : Kind) (b : Fin 4) (ch : Channel) (factor : BitVec 6) (s : State) (c : Converter) (t : Fin 4) :
    Except Err State :=
  if channelOk k ch c.gen = false then .error .unsupportedChannel
  else if legalFactor factor.toNat c.gen = false then .error .invalidFactor
  else .ok (postOk (setRateEffect k t b ch factor.toNat c s))

/-- SET_RATE (R164). -/
def execSetRate (k : Kind) (t : BitVec 3) (b : Fin 4) (ch : Channel) (factor : BitVec 6) (s : State) :
    Host.Outcome State Fault Refusal :=
  finish s (onBlock s k t b (setRateRule k b ch factor s))

/-- GET_RATE's rule after the availability checks: channel, then the read, whose code may have no decode (R175). -/
def getRateRule (k : Kind) (b : Fin 4) (ch : Channel) (s : State) (c : Converter) (t : Fin 4) : Except Err State :=
  let a := FieldAddr.blk (.rateFactor ch) k t (phys s.inp c k t b)
  if channelOk k ch c.gen = false then .error .unsupportedChannel
  else
    match factorDecode (fieldValue a s).toNat c.gen with
    | none => .ok (raise .inconsistentConfiguration none (portRead a s))
    | some f => .ok (postOk { portRead a s with res0 := BitVec.ofNat 32 f })

/-- GET_RATE (R175). -/
def execGetRate (k : Kind) (t : BitVec 3) (b : Fin 4) (ch : Channel) (s : State) : Host.Outcome State Fault Refusal :=
  finish s (onBlock s k t b (getRateRule k b ch s))

end Sys2Proof.Machine
end

