-- ==== Sys2Proof/Machine/Mixer.lean ====
section
/-! DEFINITION. The mixer/NCO configurator: SET_MIXER and GET_MIXER with their exact arithmetic (44_mixer_nco.md
sections 1 and 2).

Rational arithmetic is exact in integers by one choice of unit, the quarter hertz: the effective rate E is `fs` or
`fs / 2`, so with H = 2E the half rate E/2 is H quarter hertz, E is 2H, and a frequency of f Hz is 4f (DEDUCED, log entry 21). -/

namespace Sys2Proof.Machine

/-- `trunc` of the rational n / d (R8). -/
def truncDiv (n d : Int) : Int := Int.tdiv n d

/-- `round` of the rational n / d, halves away from zero (R8), for d > 0. -/
def roundDiv (n d : Int) : Int := if 0 ≤ n then (2 * n + d) / (2 * d) else -((2 * -n + d) / (2 * d))

/-- E/2 in quarter hertz (R195): H = 2E, with E = `fs`, halved for a DAC in HALF_BW_IMR. -/
def halfRate (c : Converter) (k : Kind) (t b : Fin 4) : Nat :=
  if k = .dac ∧ (c.blkAt k t b).dpMode = .halfBwImr then (c.tileAt k t).fs else 2 * (c.tileAt k t).fs

/-- `QUIRK_MIX_GENS` (R198). -/
def quirkMixGens : List Nat := [1, 2]

/-- `QUIRK(k, t, b)`: the calibration-mode-1 compensation applies (R198). -/
def quirk (c : Converter) (k : Kind) (t b : Fin 4) : Bool :=
  k == .adc && quirkMixGens.contains c.gen && (c.anaAt k t b).cal == .mode1

/-- `SWAP` (R198). -/
def swapSel : CoarseSel → CoarseSel
  | .off => .off
  | .bypass => .fs2
  | .fs2 => .bypass
  | .fs4 => .mfs4
  | .mfs4 => .fs4

/-- The number of adjustments `adj` that `NORMALISE(f, E)` makes, its two loops in closed form: the least number
of additions (positive) or subtractions (negative) of 2H that bring `f` into [-H, H] (R199). -/
def adjustments (f : Int) (h : Nat) : Int :=
  if f < -(h : Int) then ((h : Int) - f - 1) / (2 * h)
  else if (h : Int) < f then -((f + h - 1) / (2 * h))
  else 0

/-- `NORMALISE(f, E)` = (fn, adj), in quarter hertz (R199). -/
def normalise (f : Int) (h : Nat) : Int × Int := (f + adjustments f h * (2 * h), adjustments f h)

/-- The requested frequency less the compensation, in quarter hertz (R190, R198). -/
def compensated (freq : BitVec 64) (h : Nat) (q : Bool) : Int := 4 * freq.toInt - (if q then (h : Int) else 0)

/-- `inv` (R199): an adjustment was made and the block is in the even zone. -/
def inverted (adj : Int) (z : Zone) : Bool := adj != 0 && z == .even

/-- `fw` = wrap_48(trunc(±fn * 2^48 / E)) (R199). -/
def freqWord (freq : BitVec 64) (h : Nat) (q : Bool) (z : Zone) : BitVec 48 :=
  let n := normalise (compensated freq h q) h
  BitVec.ofInt 48 (truncDiv ((if inverted n.2 z then -n.1 else n.1) * 2 ^ 48) (2 * h))

/-- `pw` = wrap_17(trunc(phase * 2^16 / 180000)) (R201). -/
def phaseWord (phase : BitVec 32) : BitVec 17 := BitVec.ofInt 17 (truncDiv (phase.toInt * 2 ^ 16) 180000)

/-- `DENORM(fw, E, q, freqP, zone)` in integer Hz (R210); the sum is kept over 4 * 2^48. -/
def denormalise (fw : BitVec 48) (h : Nat) (q : Bool) (freqP : BitVec 64) (z : Zone) : Int :=
  let adj := (normalise (compensated freqP h q) h).2
  let fd := fw.toInt * (2 * h)
  let fd := if inverted adj z then -fd else fd
  let fd := fd - adj * (2 * h) * 2 ^ 48
  let fd := fd + (if q then (h : Int) * 2 ^ 48 else 0)
  roundDiv fd (4 * 2 ^ 48)

/-- The phase a word reads back as, in millidegrees: round(sext_17(pw) * 180000 / 2^16) (R209). -/
def phaseRead (pw : BitVec 17) : Int := roundDiv (pw.toInt * 180000) (2 ^ 16)

/-! ## The coarse and fine field table (R204, R205, R211) -/

/-- The default table's fine field for a type other than OFF: type, mode, I enable, Q enable (R205). -/
def fineDefault (ty : MixType) (md : MixMode) : Word :=
  let qen : Bool := match md with
    | .c2c => true
    | .c2r => true
    | .r2c => true
    | .r2r => false
    | .off => false
  0#25 ++ flag qen ++ 1#1 ++ modeCode md ++ typeCode ty

/-- The table's entry: type OFF forces the off encodings (R204(a)); else the implementation's row, or the default table's
values (R205). -/
def mixerEntry (par : Params) (ty : MixType) (md : MixMode) (sl : CoarseSel) (hs odd : Bool) : Word × Word :=
  if ty = .off then (par.coarseOff, par.fineOff)
  else
    match par.mixerRows.find? (fun r => r.type == ty && r.mode == md && r.sel == sl && r.hs == hs && r.odd == odd) with
    | some r => (r.coarse, r.fine)
    | none => ((selCode sl).setWidth 32, fineDefault ty md)

/-- `MIXER_ENC(ty, md, sl, hs, par)` = (cc, fc): the table's entry, cut to the fields' widths, which R204 says it fits. -/
def mixerEnc (par : Params) (ty : MixType) (md : MixMode) (sl : CoarseSel) (hs odd : Bool) : Word × Word :=
  let e := mixerEntry par ty md sl hs odd
  (lowBits par.coarseBits e.1, lowBits par.fineBits e.2)

/-- The modes, in code order (R89). -/
def allModes : List MixMode := [.off, .c2c, .c2r, .r2c, .r2r]

/-- The selectors, in code order (R90). -/
def allSels : List CoarseSel := [.off, .bypass, .fs2, .fs4, .mfs4]

/-- What a field pair can stand for: type OFF once, as (OFF, OFF, OFF), and every mode and selector of the
other types (R211; log entry 8). -/
def mixerKeys : List (MixType × MixMode × CoarseSel) :=
  (.off, .off, .off) ::
    [MixType.coarse, MixType.fine].flatMap fun ty => allModes.flatMap fun md => allSels.map fun sl => (ty, md, sl)

/-- `MIXER_DEC`: the unique preimage of a field pair, none when there is none or more than one (R211). -/
def mixerDec (par : Params) (cc fc : Word) (hs odd : Bool) : Option (MixType × MixMode × CoarseSel) :=
  match mixerKeys.filter (fun x => mixerEnc par x.1 x.2.1 x.2.2 hs odd == (cc, fc)) with
  | [x] => some x
  | _ => none

/-! ## SET_MIXER -/

/-- The consistency checks (b) to (d) of R193: type OFF iff mode OFF, no FINE with R2R, no COARSE with selector OFF. -/
def consistent (x : Settings) : Bool :=
  (x.type == .off) == (x.mode == .off) && !(x.type == .fine && x.mode == .r2r) && !(x.type == .coarse && x.sel == .off)

/-- The event source check (R194). -/
def eventOk (i : Inputs) (par : Params) (k : Kind) (t : Fin 4) (ev : EventSrc) : Bool :=
  match k with
  | .dac => true
  | .adc => ev != .marker && (!i.hs .adc t || par.hsEventSet.contains ev)

/-- SET_MIXER's own checks, in order (R190, R192 to R196), on the settings word, frequency and phase. -/
def mixerChecks (s : State) (c : Converter) (k : Kind) (t b : Fin 4) (a : ArgLatch) : Except Err Settings :=
  match settingsOf a.arg2 with
  | none => .error .invalidArgument
  | some x =>
    if k = .dac ∧ (c.blkAt k t b).dpMode = .fullBwBypass then .error .inconsistentConfiguration
    else if consistent x = false then .error .inconsistentConfiguration
    else if eventOk s.inp s.par k t x.evt = false then .error .invalidArgument
    else if (phaseArg a).toInt ≤ -180000 ∨ 180000 ≤ (phaseArg a).toInt then .error .invalidArgument
    else if (halfRate c k t b : Int) < 4 * |(freqArg a).toInt| then .error .invalidArgument
    else .ok x

/-- The selector SET_MIXER encodes: swapped under the compensation (R198). -/
def encodedSel (c : Converter) (k : Kind) (t b : Fin 4) (sl : CoarseSel) : CoarseSel :=
  if quirk c k t b then swapSel sl else sl

/-- The frequency word SET_MIXER writes (R199). -/
def setFreqWord (c : Converter) (k : Kind) (t b : Fin 4) (a : ArgLatch) : BitVec 48 :=
  freqWord (freqArg a) (halfRate c k t b) (quirk c k t b) (c.anaAt k t b).zone

/-- The eleven field writes of one physical block, in order (R203). -/
def mixerBlockWrites (i : Inputs) (par : Params) (c : Converter) (k : Kind) (t b : Fin 4) (x : Settings) (a : ArgLatch)
    (p : Fin 4) : List (FieldAddr × Word) :=
  let fw := setFreqWord c k t b a
  let pw := phaseWord (phaseArg a)
  let e := mixerEnc par x.type x.mode (encodedSel c k t b x.sel) (i.hs k t) (p.val % 2 == 1)
  [(.blk .rateDtype k t p, (category k x.mode).bit.setWidth 32),
   (.blk .ncoFreqLow k t p, (fw.extractLsb' 0 16).setWidth 32),
   (.blk .ncoFreqMid k t p, (fw.extractLsb' 16 16).setWidth 32),
   (.blk .ncoFreqUpp k t p, (fw.extractLsb' 32 16).setWidth 32),
   (.blk .ncoPhaseLow k t p, (pw.extractLsb' 0 16).setWidth 32),
   (.blk .ncoPhaseMid k t p, (pw.extractLsb' 16 1).setWidth 32),
   (.blk .ncoPhaseUpp k t p, 0),
   (.blk .mixCoarse k t p, e.1),
   (.blk .mixFine k t p, e.2),
   (.blk .mixScale k t p, (scaleCode x.scale).setWidth 32),
   (.blk .mixEvt k t p, (evtCode x.evt).setWidth 32)]

/-- The update pulses: only for an immediate event, over the span (R206). -/
def updateWrites (x : Settings) (k : Kind) (t : Fin 4) (ps : List (Fin 4)) : List (FieldAddr × Word) :=
  if x.evt = .immediate then spanWrites .mixUpdate 1 k t ps else []

/-- The block record SET_MIXER persists: the requested values and the new data type (R207). -/
def persistedBlk (r : BlkRec) (k : Kind) (x : Settings) (a : ArgLatch) : BlkRec :=
  { r with
    dtype := category k x.mode
    mix := { type := x.type, mode := x.mode, sel := x.sel, freq := freqArg a, phase := phaseArg a, evt := x.evt, scale := x.scale } }

/-- SET_MIXER's effect after its checks, before posting: the writes, the pulses, the persisted record, and the
recomputation for LIVE and, on an ADC of generation 3 or later, for OBS (R190, R207). -/
def setMixerEffect (k : Kind) (t b : Fin 4) (x : Settings) (c : Converter) (s : State) : State :=
  let ps := span s.inp c k t b
  let s1 := portWrites (ps.flatMap (mixerBlockWrites s.inp s.par c k t b x s.argL)) s
  let s2 := portWrites (updateWrites x k t ps) s1
  let s3 := { s2 with inst := some (c.setBlk k t b (persistedBlk (c.blkAt k t b) k x s.argL)) }
  let s4 := fifoRecompute c k t b .live s3
  if k = .adc ∧ 3 ≤ c.gen then fifoRecompute c k t b .obs s4 else s4

/-- SET_MIXER's rule after the availability checks (R190). -/
def setMixerRule (k : Kind) (b : Fin 4) (s : State) (c : Converter) (t : Fin 4) : Except Err State :=
  match mixerChecks s c k t b s.argL with
  | .error e => .error e
  | .ok x => .ok (postOk (setMixerEffect k t b x c s))

/-- SET_MIXER (R190). -/
def execSetMixer (k : Kind) (t : BitVec 3) (b : Fin 4) (s : State) : Host.Outcome State Fault Refusal :=
  finish s (onBlock s k t b (setMixerRule k b s))

/-! ## GET_MIXER -/

/-- The fields GET_MIXER reads, in order; `NCO.PHASE_UPP` is not read (R209). -/
def getMixerReads (k : Kind) (t p : Fin 4) : List FieldAddr :=
  [.blk .ncoFreqUpp k t p, .blk .ncoFreqMid k t p, .blk .ncoFreqLow k t p, .blk .ncoPhaseMid k t p, .blk .ncoPhaseLow k t p,
   .blk .mixCoarse k t p, .blk .mixFine k t p, .blk .mixEvt k t p, .blk .mixScale k t p]

/-- The 48-bit word in a physical block's three frequency fields (R209). -/
def freqWordAt (k : Kind) (t p : Fin 4) (s : State) : BitVec 48 :=
  (fieldValue (.blk .ncoFreqUpp k t p) s).extractLsb' 0 16 ++ (fieldValue (.blk .ncoFreqMid k t p) s).extractLsb' 0 16 ++
    (fieldValue (.blk .ncoFreqLow k t p) s).extractLsb' 0 16

/-- The 17-bit word in a physical block's phase fields (R209). -/
def phaseWordAt (k : Kind) (t p : Fin 4) (s : State) : BitVec 17 :=
  (fieldValue (.blk .ncoPhaseMid k t p) s).extractLsb' 0 1 ++ (fieldValue (.blk .ncoPhaseLow k t p) s).extractLsb' 0 16

/-- The settings GET_MIXER reports: the field table run backwards, the persisted values where it has no unique
preimage, and the persisted event or scale where the field holds a reserved code (R209, R211). -/
def reportedSettings (c : Converter) (k : Kind) (t b : Fin 4) (s : State) : Settings :=
  let p := phys s.inp c k t b
  let m := (c.blkAt k t b).mix
  let q := quirk c k t b
  let d :=
    match mixerDec s.par (fieldValue (.blk .mixCoarse k t p) s) (fieldValue (.blk .mixFine k t p) s) (s.inp.hs k t)
        (p.val % 2 == 1) with
    | some x => x
    | none => (m.type, m.mode, if q then swapSel m.sel else m.sel)
  { type := d.1
    mode := d.2.1
    sel := if q then swapSel d.2.2 else d.2.2
    evt := match evtOf ((fieldValue (.blk .mixEvt k t p) s).extractLsb' 0 3) with
      | some e => e
      | none => m.evt
    scale := match scaleOf ((fieldValue (.blk .mixScale k t p) s).extractLsb' 0 2) with
      | some x => x
      | none => m.scale }

/-- The frequency GET_MIXER reports (R209, R210). -/
def reportedFreq (c : Converter) (k : Kind) (t b : Fin 4) (s : State) : Int :=
  denormalise (freqWordAt k t (phys s.inp c k t b) s) (halfRate c k t b) (quirk c k t b) (c.blkAt k t b).mix.freq
    (c.anaAt k t b).zone

/-- GET_MIXER's rule after the availability checks (R209). -/
def getMixerRule (k : Kind) (b : Fin 4) (s : State) (c : Converter) (t : Fin 4) : Except Err State :=
  let p := phys s.inp c k t b
  let f := BitVec.ofInt 64 (reportedFreq c k t b s)
  .ok (postOk { portReads (getMixerReads k t p) s with
    res0 := f.extractLsb' 0 32
    res1 := f.extractLsb' 32 32
    res2 := BitVec.ofInt 32 (phaseRead (phaseWordAt k t p s))
    res3 := settingsWord (reportedSettings c k t b s) })

/-- GET_MIXER (R209). -/
def execGetMixer (k : Kind) (t : BitVec 3) (b : Fin 4) (s : State) : Host.Outcome State Fault Refusal :=
  finish s (onBlock s k t b (getMixerRule k b s))

end Sys2Proof.Machine
end

