-- ==== Sys2Proof/Machine/Nyquist.lean ====
section
/-! DEFINITION. SET_NYQUIST and GET_NYQUIST (44_mixer_nco.md section 3). -/

namespace Sys2Proof.Machine

/-- `ZFLIP(k, t, b)` (R215). -/
def zoneFlip (par : Params) (c : Converter) (k : Kind) (t b : Fin 4) : Bool :=
  k == .adc && par.zoneFlipGens.contains c.gen && (c.anaAt k t b).cal == .mode1

/-- `OTHER` (R215). -/
def otherZone : Zone → Zone
  | .odd => .even
  | .even => .odd

/-- `NYQ.ZONE` codes: 0 = ODD, 1 = EVEN (R93). -/
def zoneBit : Zone → Word
  | .odd => 0
  | .even => 1

/-- The zone as the hardware field holds it: flipped or not (R214). -/
def hardwareZone (par : Params) (c : Converter) (k : Kind) (t b : Fin 4) (z : Zone) : Zone :=
  if zoneFlip par c k t b then otherZone z else z

/-- SET_NYQUIST's effect after its checks, before posting: the stored zone, then the writes over the span (R214). -/
def setNyquistEffect (k : Kind) (t b : Fin 4) (z : Zone) (c : Converter) (s : State) : State :=
  portWrites (spanWrites .nyqZone (zoneBit (hardwareZone s.par c k t b z)) k t (span s.inp c k t b))
    { s with inst := some (c.setAna k t b { c.anaAt k t b with zone := z }) }

/-- SET_NYQUIST's rule after the tile check: the reserved zone codes are decode checks, before availability (R94,
R214). -/
def setNyquistRule (k : Kind) (b : Fin 4) (z : BitVec 2) (s : State) (c : Converter) (t : Fin 4) : Except Err State :=
  match zoneOf z with
  | none => .error .invalidArgument
  | some zone =>
    match available s.inp k t b with
    | .error e => .error e
    | .ok () => .ok (postOk (setNyquistEffect k t b zone c s))

/-- SET_NYQUIST (R214). -/
def execSetNyquist (k : Kind) (t : BitVec 3) (b : Fin 4) (z : BitVec 2) (s : State) : Host.Outcome State Fault Refusal :=
  finish s (onTile s t (setNyquistRule k b z s))

/-- The zone GET_NYQUIST reports: the hardware field, flipped back (R216). -/
def reportedZone (c : Converter) (k : Kind) (t b : Fin 4) (s : State) : Zone :=
  let hz := if fieldValue (.blk .nyqZone k t (phys s.inp c k t b)) s = 1 then Zone.even else Zone.odd
  if zoneFlip s.par c k t b then otherZone hz else hz

/-- GET_NYQUIST's rule after the availability checks (R216). -/
def getNyquistRule (k : Kind) (b : Fin 4) (s : State) (c : Converter) (t : Fin 4) : Except Err State :=
  .ok (postOk { portRead (.blk .nyqZone k t (phys s.inp c k t b)) s with
    res0 := (zoneCode (reportedZone c k t b s)).setWidth 32 })

/-- GET_NYQUIST (R216). -/
def execGetNyquist (k : Kind) (t : BitVec 3) (b : Fin 4) (s : State) : Host.Outcome State Fault Refusal :=
  finish s (onBlock s k t b (getNyquistRule k b s))

end Sys2Proof.Machine
end

