-- ==== Sys2Proof/Machine/Restart.lean ====
section
/-! DEFINITION. The tile power-state sequencer: one engine step of RESTART in each sequencer state
(41_power_sequencer.md rules R110 to R130). -/

namespace Sys2Proof.Machine

/-- `DOWNGRADE(k, t, e)` (R114). -/
def downgrade (i : Inputs) (c : Converter) (k : Kind) (t : Fin 4) (e : BitVec 4) : BitVec 4 :=
  if k = .adc ∧ i.hs .adc t = true ∧ 3 ≤ c.gen ∧ e = 1 then 3 else e

/-- The selector means "all" (R82). -/
def allTiles (t : BitVec 3) : Bool := t == 7

/-- The decode check of RESTART's selector: 0..3 or 7 (R82, R94). -/
def restartSelectorOk (t : BitVec 3) : Bool := (tileOf t).isSome || allTiles t

/-- `R_SELECT`: past the last tile the walk ends, in the step after (DEDUCED, log entry 10), else the tile is checked (R112). -/
def walkSelect (s : State) : State := { s with seq := if s.lastIdx < s.idx then .posting else .rCheck }

/-- `R_CHECK`: a disabled tile ends the command if addressed, and is skipped with a debug event in an "all" walk
(R112, R120, R129). -/
def walkCheck (k : Kind) (all : Bool) (n : Fin 4) (s : State) : State :=
  if s.inp.tileOn k n then { s with seq := .rWrite }
  else if all = false then raise .tileUnavailable (some { tile := n, poll := none }) s
  else
    emit { level := .debug, name := .tileSkipped, k := k, t := BitVec.ofFin (w := 3) (Fin.castLE (by decide) n), b := 0, info := none }
      { s with idx := s.idx + 1, seq := .rSelect }

/-- `R_WRITE`: the downgraded end state and the requested start state, in one access (R112, R114, R117). -/
def walkWrite (k : Kind) (start stop : BitVec 4) (c : Converter) (n : Fin 4) (s : State) : State :=
  { portWriteRestartState k n start (downgrade s.inp c k n stop) s with
    endEff := downgrade s.inp c k n stop
    seq := .rTrigger }

/-- `R_TRIGGER`: the trigger, then the lock poll if the tile has an internal PLL and the target is full operation, else
the clear poll (R112, R115, R118). -/
def walkTrigger (k : Kind) (c : Converter) (n : Fin 4) (s : State) : State :=
  { portWrite (.tile .restartGo k n) 1 s with
    retry := 0
    seq := if (c.tileAt k n).clkSrc = .internalPll ∧ s.endEff.toNat = Config.stateMax then .rLock else .rClear }

/-- A sample that does not end its poll: `Timeout` once the budget is used, else one more retry and a wait (R112,
R115, R116). -/
def pollAgain (which : Poll) (budget : Nat) (n : Fin 4) (s : State) : State :=
  if s.retry = budget then raise .timeout (some { tile := n, poll := some which }) s
  else record .wait { s with retry := s.retry + 1, timer := true }

/-- `R_LOCK`: one sample of `PLL.LOCKED` (R112, R115). -/
def walkLock (k : Kind) (n : Fin 4) (s : State) : State :=
  if nextAnswer s then { poll .pllLocked k n s with retry := 0, seq := .rClear }
  else pollAgain .lock s.par.lockMaxRetries n (poll .pllLocked k n s)

/-- `R_CLEAR`: one sample of `RESTART.GO`; at 0 the tile's power state is recorded and the walk goes on (R112, R116,
R119). -/
def walkClear (k : Kind) (c : Converter) (n : Fin 4) (s : State) : State :=
  if nextAnswer s = false then
    { poll .restartGo k n s with
      inst := some (c.setTile k n { c.tileAt k n with pwr := s.endEff.toNat })
      idx := s.idx + 1
      seq := .rSelect }
  else pollAgain .clear s.par.clrMaxRetries n (poll .restartGo k n s)

/-- The tile of a walk index. -/
def walkTile (idx : Nat) : Option (Fin 4) := if h : idx < 4 then some ⟨idx, h⟩ else none

/-- A walk step at the current tile (`Fault.walkIndex` says when there is none). -/
def atTile (s : State) (f : Fin 4 → State) : Host.Outcome State Fault Refusal :=
  match walkTile s.idx with
  | some n => .next (f n)
  | none => .fault .walkIndex

/-- One engine step of the walk (R112). A running poll timer's wait ends first, one transition (R113; DESIGN CHOICE, log entry 11).
In `IDLE` and `EXEC`, which no accepted RESTART is in, it starts the walk (log entry 28). -/
def walkStep (k : Kind) (t : BitVec 3) (start stop : BitVec 4) (c : Converter) (s : State) : Host.Outcome State Fault Refusal :=
  if s.timer then .next { s with timer := false }
  else
    match s.seq with
    | .idle => .next (startWalk t s)
    | .exec => .next (startWalk t s)
    | .rSelect => .next (walkSelect s)
    | .rCheck => atTile s fun n => walkCheck k (allTiles t) n s
    | .rWrite => atTile s fun n => walkWrite k start stop c n s
    | .rTrigger => atTile s fun n => walkTrigger k c n s
    | .rLock => atTile s fun n => walkLock k n s
    | .rClear => atTile s fun n => walkClear k c n s
    | .posting => .next (postOk s)

/-- RESTART (R110): the decode checks of R94, then one engine step of the walk. -/
def execRestart (k : Kind) (t : BitVec 3) (start stop : BitVec 4) (s : State) : Host.Outcome State Fault Refusal :=
  match s.inst with
  | none => .next (raise .notInitialized none s)
  | some c =>
    if restartSelectorOk t = false then .next (raise .invalidArgument none s)
    else walkStep k t start stop c s

end Sys2Proof.Machine
end

