-- ==== Sys2Proof/Machine/System.lean ====
section
/-! DEFINITION. INIT and GET_STATUS (45_system.md). -/

namespace Sys2Proof.Machine

/-- Both kinds, ADC first. -/
def allKinds : List Kind := [.adc, .dac]

/-- The indices 0..3 in order. -/
def allFour : List (Fin 4) := [0, 1, 2, 3]

/-- The tile items of `VALID(S)`: (b) the sample rate of an enabled tile, (c) the power state (R241). -/
def validTile (on : Bool) (r : TileRec) : Bool :=
  (!on || (decide (1 ≤ r.fs) && decide (r.fs ≤ 2 ^ 47 - 1))) && decide (r.pwr ≤ Config.stateMax)

/-- The block items of `VALID(S)`: (d) type OFF iff mode OFF, (e) the rates, (f) an ADC's datapath mode (R241). -/
def validBlk (k : Kind) (r : SnapBlk) : Bool :=
  (r.mix.type == .off) == (r.mix.mode == .off) && factors.contains r.rateLive && factors.contains r.rateObs &&
    (k == .dac || r.dpMode == .normal)

/-- The analog item of `VALID(S)`: (c), with the value R32 gives `cal` on a DAC block, 2. R241 lists no item of its own for it, so
that a DAC block with `cal` = 1 fails (c) is the model's reading (DEDUCED, unsafe: log entry 29). -/
def validAna (k : Kind) (r : AnaRec) : Bool := k == .adc || r.cal == .mode2

/-- `VALID(S)` (R241). -/
def validSnapshot (i : Inputs) : Bool :=
  decide (1 ≤ i.snapshot.gen) && decide (i.snapshot.gen ≤ 15) && !i.snapshot.badEnum &&
    allKinds.all fun k => allFour.all fun t =>
      validTile (i.tileOn k t) ((i.snapshot.tile.get k).get t) &&
        allFour.all fun b =>
          validBlk k (((i.snapshot.blk.get k).get t).get b) && validAna k (((i.snapshot.ana.get k).get t).get b)

/-- A block of the new converter record: the snapshot's fields and the resolver's pair (R242). -/
def initBlk (i : Inputs) (k : Kind) (t b : Fin 4) : BlkRec :=
  let r := ((i.snapshot.blk.get k).get t).get b
  let p := pair (category k r.mix.mode) ((i.snapshot.tile.get k).get t).mb b (slices i k t)
  { dtype := r.dtype
    mix := r.mix
    rateLive := r.rateLive
    rateObs := r.rateObs
    connI := p.1
    connQ := p.2
    dpMode := r.dpMode }

/-- The converter record built from the snapshot (R240, R242). -/
def initConverter (i : Inputs) : Converter where
  gen := i.snapshot.gen
  tile := i.snapshot.tile
  blk := PerKind.ofFn fun k => Quad.ofFn fun t => Quad.ofFn fun b => initBlk i k t b
  ana := i.snapshot.ana

/-- INIT (R240): the snapshot, if valid, replaces the whole converter record; else `InconsistentConfiguration` and
the record is kept. No port access; `NotInitialized` never applies (R94). -/
def execInit (s : State) : Host.Outcome State Fault Refusal :=
  finish s (if validSnapshot s.inp then .ok (postOk { s with inst := some (initConverter s.inp) })
    else .error .inconsistentConfiguration)

/-- `STATUS_WORD(k, t, b)` (R247). -/
def blockStatusWord (c : Converter) (k : Kind) (t b : Fin 4) (s : State) : Word :=
  let p := phys s.inp c k t b
  let r := c.blkAt k t b
  let tl := c.tileAt k t
  0#8 ++ flag (r.dtype == .iq) ++ modeCode r.mix.mode ++ typeCode r.mix.type ++
    (fieldValue (.blk (.fabricRate .live) k t p) s).extractLsb' 0 4 ++
    (fieldValue (.blk (.rateFactor .live) k t p) s).extractLsb' 0 6 ++
    BitVec.ofNat 4 tl.pwr ++ flag (tl.clkSrc == .internalPll) ++ flag (s.inp.hs k t) ++ flag (s.inp.pathOn k t b) ++
    flag (s.inp.blockOn k t b)

/-- GET_STATUS's rule after the tile selector check: the tile must be enabled (R246). -/
def getStatusRule (k : Kind) (b : Fin 4) (s : State) (c : Converter) (t : Fin 4) : Except Err State :=
  let p := phys s.inp c k t b
  let fs := BitVec.ofNat 64 (c.tileAt k t).fs
  if s.inp.tileOn k t = false then .error .tileUnavailable
  else
    .ok (postOk { portRead (.blk (.fabricRate .live) k t p) (portRead (.blk (.rateFactor .live) k t p) s) with
      res0 := blockStatusWord c k t b s
      res1 := fs.extractLsb' 0 32
      res2 := fs.extractLsb' 32 32 })

/-- GET_STATUS (R246). -/
def execGetStatus (k : Kind) (t : BitVec 3) (b : Fin 4) (s : State) : Host.Outcome State Fault Refusal :=
  finish s (onTile s t (getStatusRule k b s))

end Sys2Proof.Machine
end

