-- ==== Sys2Proof/Machine/Dispatch.lean ====
section
/-! DEFINITION. One arm per command (R95): its meaning. -/

namespace Sys2Proof.Machine

def exec (i : Instr) (s : State) : Host.Outcome State Fault Refusal :=
  match i with
  | .init => Sys2Proof.Machine.execInit s
  | .getStatus k t b => Sys2Proof.Machine.execGetStatus k t b s
  | .restart k t start stop => Sys2Proof.Machine.execRestart k t start stop s
  | .resolvePair k t b mb cat => Sys2Proof.Machine.execResolvePair k t b mb cat s
  | .getPair k t b => Sys2Proof.Machine.execGetPair k t b s
  | .setRate k t b ch factor => Sys2Proof.Machine.execSetRate k t b ch factor s
  | .getRate k t b ch => Sys2Proof.Machine.execGetRate k t b ch s
  | .setMixer k t b => Sys2Proof.Machine.execSetMixer k t b s
  | .getMixer k t b => Sys2Proof.Machine.execGetMixer k t b s
  | .setNyquist k t b z => Sys2Proof.Machine.execSetNyquist k t b z s
  | .getNyquist k t b => Sys2Proof.Machine.execGetNyquist k t b s

end Sys2Proof.Machine
end

