-- ==== Sys2Proof/Machine/Engine.lean ====
section
/-! DEFINITION. One engine transition: the sequencer runs the latched command (R22, R24, R94). -/

namespace Sys2Proof.Machine

/-- The engine's transition. `IDLE`: it waits for the host. Otherwise it runs one step of the command in `cmdL`, or ends a
word that is no command with the error of R94. -/
def engineStep (s : State) : Host.Outcome State Fault Refusal :=
  if s.seq = .idle then .next s
  else
    match decode s.cmdL with
    | .ok i => exec i s
    | .error e => .next (raise (decodeErr e s) none s)

/-- An engine reset that lands inside an engine step, after its first `n` port accesses: those have happened, "no further
port access of that command happens", and nothing is posted (R65, R290). -/
def resetAmidStep (n : Nat) (s : State) : State :=
  match engineStep s with
  | .next t => engineReset (partialStep n s t)
  | .fault _ => engineReset s
  | .refused _ => engineReset s

/-- One host access or engine reset, one atomic step (R68, R290); an access the spec does not define is refused
(R71). -/
def hostAct (i : HostInput) (s : State) : Host.Outcome State Fault Refusal :=
  match i with
  | .write width offset v => if accessDefined width offset then .next (writeReg offset v s) else .refused .undefinedHostAccess
  | .read width offset =>
    if accessDefined width offset then .next { s with hostOut := s.hostOut ++ [readReg offset s] }
    else .refused .undefinedHostAccess
  | .reset => .next (engineReset s)
  | .resetAmid n => .next (resetAmidStep n s)

/-- One transition: the host's or the platform's queued input when it is due, else the engine's. -/
def transition (s : State) : Host.Outcome State Fault Refusal :=
  match turn s with
  | (some i, t) => hostAct i t
  | (none, t) => engineStep t

/-- `s` with a command word accepted and nothing else due: as the host's `CMD` write leaves it (R24), whatever ran before
abandoned and no input queued. -/
def placeCommand (w : Word) (s : State) : State := { accept w s with timer := false, hostIn := [] }

end Sys2Proof.Machine
end

