-- ==== Sys2Proof/Machine/Step.lean ====
section
/-! DEFINITION. The step function, and how a test places a command to run next. -/

namespace Sys2Proof.Machine

/-- One step of the machine. -/
def step (s : State) : Host.Outcome State Fault Refusal := transition s

/-- `s` with the command of these table bits accepted, so that the very next step runs it. The engine fetches nothing: a
command comes from a host write of `CMD` (R24, R74), and this stands for that write's acceptance (log entry 7). -/
def State.withFetchWord (s : State) (nbits w : Nat) : State := placeCommand (BitVec.ofNat 32 (w % 2 ^ nbits)) s

end Sys2Proof.Machine
end

