-- ==== Sys2Proof/Safety.lean ====
section
/-! DEFINITION. What a safe state and a safe run are: the invariant the engine keeps, in the terms the statements use. -/

namespace Sys2Proof.Machine

/-- The error codes an outcome can post: OK and R260's codes but 5, which no rule raises, and the reserved 12..255
(R260, R272). -/
def postedCode (e : Byte) : Bool := e.toNat ≤ 11 && e != 5

/-- The sequencer states in which the walk works on the tile `idx` (R112). -/
def Seq.onTile : Seq → Bool
  | .rCheck => true
  | .rWrite => true
  | .rTrigger => true
  | .rLock => true
  | .rClear => true
  | .idle => false
  | .exec => false
  | .rSelect => false
  | .posting => false

/-- The ranges and the mixer invariant of a tile's and a block's state (R29, R30, R32, R35(c), R109, R241), and that a block's pair
is one the resolver gives (R143). -/
structure ConverterOk (i : Inputs) (c : Converter) : Prop where
  gen : 1 ≤ c.gen ∧ c.gen ≤ 15
  pwr : ∀ k t, (c.tileAt k t).pwr ≤ 15
  fs : ∀ k t, i.tileOn k t = true → 1 ≤ (c.tileAt k t).fs ∧ (c.tileAt k t).fs ≤ 2 ^ 47 - 1
  mixer : ∀ k t b, (c.blkAt k t b).mix.type = .off ↔ (c.blkAt k t b).mix.mode = .off
  rate : ∀ k t b ch, (c.blkAt k t b).rate ch ∈ factors
  dpMode : ∀ t b, (c.blkAt .adc t b).dpMode = .normal
  dacCal : ∀ t b, (c.anaAt .dac t b).cal = .mode2
  pair : ∀ k t b, ∃ cat mb sl, pair cat mb b sl = ((c.blkAt k t b).connI, (c.blkAt k t b).connQ)

/-- The constraints R172, R174 put on the parameters. -/
structure ParamsOk (par : Params) : Prop where
  fabricReal : ∀ r ∈ par.fabricReal, r.2 = 1 ∨ r.2 = 2 ∨ r.2 = 4 ∨ r.2 = 8
  cgOrder : par.cgDelayPow2.toNat < par.cgDelayExt.toNat
  cgFits : par.cgDelayExt.toNat < 2 ^ par.cgDelayBits

/-- The widths R204 puts on the mixer table: `cc < 2^MIXER_COARSE_BITS`, `fc < 2^MIXER_FINE_BITS`. -/
def MixerTableFits (par : Params) : Prop :=
  ∀ ty md sl hs odd, (mixerEntry par ty md sl hs odd).1.toNat < 2 ^ par.coarseBits ∧
    (mixerEntry par ty md sl hs odd).2.toNat < 2 ^ par.fineBits

/-- The invariant every step keeps. -/
structure State.Inv (s : State) : Prop where
  /-- the stored converter fields are in canonical form -/
  conv_wf : Memory.wf s.conv = true
  /-- a stored field fits its width (R38 to R40) -/
  conv_fits : ∀ a v, Memory.lookup s.conv (FieldAddr.key a) = some v → v.toNat < 2 ^ a.width s.par
  /-- a field the tile drives, or the update pulse, is not stored (R40, R66(a)) -/
  conv_held : ∀ a, FieldAddr.notHeld a = true → Memory.lookup s.conv a.key = none
  /-- `BUSY` from acceptance to the end, `DONE` otherwise (R21) -/
  busy : s.status.busy = (s.seq != .idle)
  done : s.status.done = (s.seq == .idle)
  /-- only codes some rule raises (R260, R272) -/
  err : postedCode s.status.err = true
  /-- the RESTART fields name a tile, and are 0 when not valid (R21, R274) -/
  failTile : s.status.failTile.toNat < 4
  failValid : s.status.failTileValid = false → s.status.failTile = 0 ∧ s.status.timeoutKind = false
  /-- the walk stays within its tiles (R22, R112) -/
  lastIdx : s.lastIdx ≤ 3
  idx : s.idx ≤ s.lastIdx + 1
  tile : s.seq.onTile = true → s.idx ≤ s.lastIdx
  /-- the poll timer runs only during a wait (R270) -/
  timer : s.timer = true → s.seq = .rLock ∨ s.seq = .rClear
  /-- the polls stay within their budgets (R115, R116) -/
  lockRetry : s.seq = .rLock → s.retry ≤ s.par.lockMaxRetries
  clearRetry : s.seq = .rClear → s.retry ≤ s.par.clrMaxRetries
  /-- the converter record, once valid, is in range -/
  record : ∀ c, s.inst = some c → ConverterOk s.inp c
  /-- the parameters meet the spec's constraints on them -/
  params : ParamsOk s.par
  mixerTable : MixerTableFits s.par

/-- The mixer table is the decided default (R205). -/
structure DefaultMixerTable (par : Params) : Prop where
  rows : par.mixerRows = []
  coarseBits : par.coarseBits = 3
  fineBits : par.fineBits = 7
  coarseOff : par.coarseOff = 0
  fineOff : par.fineOff = 0

/-- `t` is a state a command that began in `s` ended in with success: R23's posting, the overrun flag kept. -/
structure PostedOk (s t : State) : Prop where
  seq : t.seq = .idle
  timer : t.timer = false
  busy : t.status.busy = false
  done : t.status.done = true
  err : t.status.err = 0
  failTile : t.status.failTile = 0
  failTileValid : t.status.failTileValid = false
  timeoutKind : t.status.timeoutKind = false
  overrun : t.status.overrun = s.status.overrun

/-- What no command but RESTART changes of the state's special registers: the command and operand registers, the latches, the
walk's registers, the queues to and from the host and the tiles, the inputs and the parameters. -/
structure EngineFrame (s t : State) : Prop where
  cmd : t.cmd = s.cmd
  arg0L : t.arg0L = s.arg0L
  arg0H : t.arg0H = s.arg0H
  arg1 : t.arg1 = s.arg1
  arg2 : t.arg2 = s.arg2
  cmdL : t.cmdL = s.cmdL
  argL : t.argL = s.argL
  idx : t.idx = s.idx
  lastIdx : t.lastIdx = s.lastIdx
  endEff : t.endEff = s.endEff
  retry : t.retry = s.retry
  hostIn : t.hostIn = s.hostIn
  hostOut : t.hostOut = s.hostOut
  tileIn : t.tileIn = s.tileIn
  draws : t.draws = s.draws
  inp : t.inp = s.inp
  par : t.par = s.par
  overrun : t.status.overrun = s.status.overrun

/-- The result registers are unchanged. -/
structure ResultsKept (s t : State) : Prop where
  res0 : t.res0 = s.res0
  res1 : t.res1 = s.res1
  res2 : t.res2 = s.res2
  res3 : t.res3 = s.res3

/-- Every converter field outside `touched` reads as before: the frame of the converter register space. -/
def FieldsKept (touched : FieldAddr → Prop) (s t : State) : Prop := ∀ a, ¬touched a → fieldValue a t = fieldValue a s

/-- The fields SET_MIXER writes at each physical block, in order (R203). -/
def mixerFields : List BlockField :=
  [.rateDtype, .ncoFreqLow, .ncoFreqMid, .ncoFreqUpp, .ncoPhaseLow, .ncoPhaseMid, .ncoPhaseUpp, .mixCoarse, .mixFine, .mixScale, .mixEvt]

/-- The port accesses of `FIFO_RECOMPUTE` when the physical block's factor code and data type read as given (R168): the two reads, then
the width over the span unless the code has no decode. -/
def recomputeAccesses (par : Params) (i : Inputs) (c : Converter) (k : Kind) (t b : Fin 4) (ch : Channel) (code dtype : Word) :
    List PortEvent :=
  [.read (.blk (.rateFactor ch) k t (phys i c k t b)) code, .read (.blk .rateDtype k t (phys i c k t b)) dtype] ++
    match factorDecode code.toNat c.gen with
    | none => []
    | some f =>
      (span i c k t b).map fun p => .write (.blk (.fabricRate ch) k t p) (BitVec.ofNat 32 (fifoWidth par f (dtypeOf dtype) (i.hs k t)))

/-- The waits among port events (R113). -/
def waits (p : List PortEvent) : Nat :=
  p.countP fun
    | .wait => true
    | _ => false

/-- The samples of the two polls among port events (R115, R116). -/
def samples (p : List PortEvent) : Nat :=
  p.countP fun
    | .read (.tile .pllLocked _ _) _ => true
    | .read (.tile .restartGo _ _) _ => true
    | _ => false

/-- The instruction is a RESTART. -/
def isRestart (i : Instr) : Bool := i.opcode == .restart

/-- No step from `s` stops with a fault. -/
def neverFaults (s : State) : Prop := ∀ f, step s ≠ .fault f

end Sys2Proof.Machine
end

