-- ==== Sys2Proof/Certificates/Slice0/Obligations.lean ====
section
/-! DEFINITION. The statements. Each docstring names the rule of spec/ it formalises, or says what is the model's own. -/

open Sys2Proof Sys2Proof.Machine

/-! ## Encoding (30_encoding.md) -/

/-- Decoding a command's word gives the command back, with every field at every value (R81, R85, R95). -/
def Obligations.DecodeReadsEncode : Prop := ∀ i : Instr, decode (encode i) = .ok i

/-- A word that decodes is the encoding of what it decodes to: no two words are one command (R81, R95, R96). -/
def Obligations.EncodeWritesDecode : Prop := ∀ (w : Word) (i : Instr), decode w = .ok i → encode i = w

/-- R103's nine worked encodings, read and written. -/
def Obligations.WorkedEncodings : Prop :=
  (decode 0x1000010F = .ok (.restart .adc 0 1 15) ∧ encode (.restart .adc 0 1 15) = 0x1000010F) ∧
  (decode 0x10F0010F = .ok (.restart .dac 7 1 15) ∧ encode (.restart .dac 7 1 15) = 0x10F0010F) ∧
  (decode 0x10100101 = .ok (.restart .adc 1 1 1) ∧ encode (.restart .adc 1 1 1) = 0x10100101) ∧
  (decode 0x10A0000F = .ok (.restart .dac 2 0 15) ∧ encode (.restart .dac 2 0 15) = 0x10A0000F) ∧
  (decode 0x30900003 = .ok (.setRate .dac 1 0 .live 3) ∧ encode (.setRate .dac 1 0 .live 3) = 0x30900003) ∧
  (decode 0x30060008 = .ok (.setRate .adc 0 1 .obs 8) ∧ encode (.setRate .adc 0 1 .obs 8) = 0x30060008) ∧
  (decode 0x40000000 = .ok (.setMixer .adc 0 0) ∧ encode (.setMixer .adc 0 0) = 0x40000000) ∧
  (decode 0x42200001 = .ok (.setNyquist .adc 2 0 1) ∧ encode (.setNyquist .adc 2 0 1) = 0x42200001) ∧
  (decode 0x200C0011 = .ok (.resolvePair .adc 0 3 1 .iq) ∧ encode (.resolvePair .adc 0 3 1 .iq) = 0x200C0011)

/-- R94's decoding of an accepted word: the checks in their order, each with the error it raises, and otherwise the command's rule,
run with the fields R94 names. That the error is posted by the step after the acceptance is the model's reading (DEDUCED, log
entry 9). -/
def Obligations.DecodeChecksInOrder : Prop :=
  ∀ (s : State) (w : Word), s.seq ≠ .idle → s.hostIn = [] → s.cmdL = w →
    ((∀ o : Opcode, bits w 24 8 ≠ o.code) → step s = .next (raise .illegalCommand none s)) ∧
    ∀ o : Opcode, bits w 24 8 = o.code →
      (o ≠ .init → s.inst = none → step s = .next (raise .notInitialized none s)) ∧
      (o = .init ∨ s.inst ≠ none →
        (w &&& o.reservedZeroMask ≠ 0 → step s = .next (raise .invalidArgument none s)) ∧
        (w &&& o.reservedZeroMask = 0 →
          (bits w 20 3 = 4 ∨ bits w 20 3 = 5 ∨ bits w 20 3 = 6 → step s = .next (raise .invalidArgument none s)) ∧
          (bits w 20 3 = 7 → o ≠ .restart → step s = .next (raise .invalidArgument none s)) ∧
          ((bits w 20 3).toNat < 4 → o = .resolvePair → bits w 0 2 = 3 → step s = .next (raise .invalidArgument none s)) ∧
          ((bits w 20 3).toNat < 4 → o = .setNyquist → bits w 0 2 = 0 ∨ bits w 0 2 = 3 →
            step s = .next (raise .invalidArgument none s)) ∧
          ((bits w 20 3).toNat < 4 ∨ (bits w 20 3 = 7 ∧ o = .restart) →
            (o = .resolvePair → bits w 0 2 ≠ 3) → (o = .setNyquist → bits w 0 2 = 1 ∨ bits w 0 2 = 2) →
            step s = exec (build o w) s)))

/-! ## The step, acceptance, the host port and reset (10_state.md, 20_memory.md, 70_reset_and_hazards.md) -/

/-- A step runs the decoded command: with a command running and no input due, the step is `exec` of what the latched word decodes
to, at that state (R22, R24). The queue of inputs is the model's own (DESIGN CHOICE, log entry 6): an input queued for later has
its count of engine steps lowered by one first, and one queued for `DONE` waits. -/
def Obligations.StepRunsDecodedCommand : Prop :=
  ∀ (s : State) (i : Instr), s.seq ≠ .idle → decode s.cmdL = .ok i →
    (s.hostIn = [] → step s = exec i s) ∧
    (∀ (n : Nat) (a : HostInput) (rest : List HostEvent), s.hostIn = { gate := .after (n + 1), input := a } :: rest →
      step s = exec i { s with hostIn := { gate := .after n, input := a } :: rest }) ∧
    (∀ (a : HostInput) (rest : List HostEvent), s.hostIn = { gate := .done, input := a } :: rest → s.status.done = false →
      step s = exec i s)

/-- A placed command is run by the very next step. Placing a command is the model's own device, which stands for an accepted `CMD`
write, clears the input queue and stops the poll timer (DESIGN CHOICE, log entry 7). -/
def Obligations.PlacedCommandRunsNext : Prop :=
  ∀ (s : State) (w : Nat) (i : Instr), decodeTableWord 32 w = some i →
    step (s.withFetchWord 32 w) = exec i (s.withFetchWord 32 w)

/-- Command acceptance (R24): what an accepted `CMD` write latches, clears and enters, and that a write while a command runs sets
`OVERRUN` and changes nothing else. RESTART's walk is started only for a word that passes the decode checks (R84, R94, R97); that any
other word enters `EXEC`, from which its own rule or its decode error follows in the next step, is the model's reading (log entry 9). -/
def Obligations.AcceptanceLatches : Prop :=
  ∀ (s : State) (w : Word) (rest : List HostEvent) (walks : Prop),
    s.hostIn = { gate := .after 0, input := .write .w32 0x00 w } :: rest →
    (walks ↔ bits w 24 8 = 0x10 ∧ w &&& 0x000FF0F0 = 0 ∧ (bits w 20 3 = 7 ∨ (bits w 20 3).toNat < 4) ∧ s.inst ≠ none) →
    (s.seq = .idle →
      ∃ t, step s = .next t ∧ t.cmdL = w ∧ t.cmd = w ∧
        t.argL = { arg0L := s.arg0L, arg0H := s.arg0H, arg1 := s.arg1, arg2 := s.arg2 } ∧
        t.res0 = 0 ∧ t.res1 = 0 ∧ t.res2 = 0 ∧ t.res3 = 0 ∧
        t.status = { busy := true, done := false, overrun := false, err := 0, failTile := 0, failTileValid := false, timeoutKind := false } ∧
        (walks → t.seq = .rSelect) ∧
        (walks → bits w 20 3 = 7 → t.idx = 0 ∧ t.lastIdx = 3) ∧
        (walks → (bits w 20 3).toNat < 4 → t.idx = (bits w 20 3).toNat ∧ t.lastIdx = (bits w 20 3).toNat) ∧
        (¬walks → t.seq = .exec ∧ t.idx = s.idx ∧ t.lastIdx = s.lastIdx) ∧
        t.arg0L = s.arg0L ∧ t.arg0H = s.arg0H ∧ t.arg1 = s.arg1 ∧ t.arg2 = s.arg2 ∧ t.endEff = s.endEff ∧ t.retry = s.retry ∧
        t.timer = s.timer ∧ t.inst = s.inst ∧ t.conv = s.conv ∧ t.hostIn = rest ∧ t.hostOut = s.hostOut ∧ t.port = s.port ∧
        t.log = s.log ∧ t.tileIn = s.tileIn ∧ t.draws = s.draws ∧ t.inp = s.inp ∧ t.par = s.par) ∧
    (s.seq ≠ .idle → step s = .next { s with hostIn := rest, status := { s.status with overrun := true } })

/-- The host window's registers as a host read returns them (R20): each listed offset, and 0 at every unlisted one; and the layout
of `CAP`: 0 until initialised, then the generation in [3:0], the high-speed ADC tiles in [7:4] and 0 above. -/
def Obligations.HostReadsWindow : Prop :=
  (∀ s : State,
    (s.inst = none → capWord s = 0) ∧
    ∀ c, s.inst = some c →
      (capWord s).extractLsb' 0 4 = BitVec.ofNat 4 c.gen ∧
      (∀ n : Fin 4, (capWord s).extractLsb' (4 + n.val) 1 = BitVec.ofBool (s.inp.hs .adc n)) ∧
      (capWord s).extractLsb' 8 24 = 0#24) ∧
  ∀ (s : State) (off : BitVec 6) (rest : List HostEvent), s.hostIn = { gate := .after 0, input := .read .w32 off } :: rest →
    ∀ v : Word,
      (off = 0x00 ∧ v = s.cmd ∨ off = 0x04 ∧ v = statusWord s ∨ off = 0x08 ∧ v = s.arg0L ∨ off = 0x0C ∧ v = s.arg0H ∨
        off = 0x10 ∧ v = s.arg1 ∨ off = 0x14 ∧ v = s.arg2 ∨ off = 0x18 ∧ v = s.res0 ∨ off = 0x1C ∧ v = s.res1 ∨
        off = 0x20 ∧ v = s.res2 ∨ off = 0x24 ∧ v = s.res3 ∨ off = 0x28 ∧ v = capWord s ∨
        (off.toNat % 4 = 0 ∧ 0x2C ≤ off.toNat) ∧ v = 0) →
      step s = .next { s with hostIn := rest, hostOut := s.hostOut ++ [v] }

/-- A host write of an operand register takes effect at once, and one of a read-only or unlisted offset has no effect (R20). -/
def Obligations.HostWritesWindow : Prop :=
  ∀ (s : State) (off : BitVec 6) (v : Word) (rest : List HostEvent),
    s.hostIn = { gate := .after 0, input := .write .w32 off v } :: rest →
    (off = 0x08 → step s = .next { s with hostIn := rest, arg0L := v }) ∧
    (off = 0x0C → step s = .next { s with hostIn := rest, arg0H := v }) ∧
    (off = 0x10 → step s = .next { s with hostIn := rest, arg1 := v }) ∧
    (off = 0x14 → step s = .next { s with hostIn := rest, arg2 := v }) ∧
    (off = 0x04 ∨ (off.toNat % 4 = 0 ∧ 0x18 ≤ off.toNat) → step s = .next { s with hostIn := rest })

/-- A host access of another width, or at an offset not a multiple of 4, has no step: "a model refuses it (no step)" (R71). -/
def Obligations.UndefinedHostAccessRefused : Prop :=
  ∀ (s : State) (wd : AccessWidth) (off : BitVec 6) (v : Word) (rest : List HostEvent), wd ≠ .w32 ∨ off.toNat % 4 ≠ 0 →
    s.hostIn = { gate := .after 0, input := .write wd off v } :: rest ∨
      s.hostIn = { gate := .after 0, input := .read wd off } :: rest →
    step s = .refused .undefinedHostAccess

/-- The layout of the word read at `STATUS` (R21). -/
def Obligations.StatusWordLayout : Prop :=
  ∀ s : State,
    (statusWord s).extractLsb' 0 1 = BitVec.ofBool s.status.busy ∧
    (statusWord s).extractLsb' 1 1 = BitVec.ofBool s.status.done ∧
    (statusWord s).extractLsb' 2 1 = BitVec.ofBool s.status.overrun ∧
    (statusWord s).extractLsb' 3 1 = BitVec.ofBool s.inst.isSome ∧
    (statusWord s).extractLsb' 4 4 = 0#4 ∧
    (statusWord s).extractLsb' 8 8 = s.status.err ∧
    (statusWord s).extractLsb' 16 3 = s.status.failTile ∧
    (statusWord s).extractLsb' 19 1 = BitVec.ofBool s.status.failTileValid ∧
    (statusWord s).extractLsb' 20 1 = BitVec.ofBool s.status.timeoutKind ∧
    (statusWord s).extractLsb' 21 11 = 0#11

/-- An engine reset (R290): every piece of the engine's state at R291's value in one step, the running command abandoned
without posting, the converter fields untouched. -/
def Obligations.EngineResetIsOneStep : Prop :=
  ∀ (s : State) (rest : List HostEvent), s.hostIn = { gate := .after 0, input := .reset } :: rest →
    ∃ t, step s = .next t ∧
      t.cmd = 0 ∧ statusWord t = 0x00000002 ∧ t.arg0L = 0 ∧ t.arg0H = 0 ∧ t.arg1 = 0 ∧ t.arg2 = 0 ∧
      t.res0 = 0 ∧ t.res1 = 0 ∧ t.res2 = 0 ∧ t.res3 = 0 ∧ capWord t = 0 ∧ t.seq = .idle ∧ t.cmdL = 0 ∧
      t.argL = { arg0L := 0, arg0H := 0, arg1 := 0, arg2 := 0 } ∧ t.idx = 0 ∧ t.lastIdx = 0 ∧ t.endEff = 0 ∧ t.retry = 0 ∧
      t.timer = false ∧ t.inst = none ∧
      t.conv = s.conv ∧ t.port = s.port ∧ t.log = s.log ∧ t.hostIn = rest ∧ t.hostOut = s.hostOut ∧ t.tileIn = s.tileIn ∧
      t.draws = s.draws ∧ t.inp = s.inp ∧ t.par = s.par

/-- An engine reset that lands inside an engine step, after `n` of its port accesses (R65, R290): exactly those accesses have been
made, in order, nothing is posted, and the engine is as after any reset; an answer of the tile is used up exactly when an access was
made. That a reset can land inside a step, which holds several accesses, is the model's form of it (log entries 12 and 25). -/
def Obligations.EngineResetAmidCommand : Prop :=
  ∀ (s u : State) (n : Nat) (made : List PortEvent) (rest : List HostEvent),
    s.hostIn = { gate := .after 0, input := .resetAmid n } :: rest → engineStep { s with hostIn := rest } = .next u →
    made = (u.port.drop s.port.length).take n →
    ∃ t, step s = .next t ∧ t.port = s.port ++ made ∧ t.conv = replayed s.par s.conv made ∧ made <+: u.port.drop s.port.length ∧
      (made.length = (u.port.drop s.port.length).length → t.conv = u.conv) ∧
      t.cmd = 0 ∧ statusWord t = 0x00000002 ∧ t.arg0L = 0 ∧ t.arg0H = 0 ∧ t.arg1 = 0 ∧ t.arg2 = 0 ∧
      t.res0 = 0 ∧ t.res1 = 0 ∧ t.res2 = 0 ∧ t.res3 = 0 ∧ capWord t = 0 ∧ t.seq = .idle ∧ t.cmdL = 0 ∧
      t.argL = { arg0L := 0, arg0H := 0, arg1 := 0, arg2 := 0 } ∧ t.idx = 0 ∧ t.lastIdx = 0 ∧ t.endEff = 0 ∧ t.retry = 0 ∧
      t.timer = false ∧ t.inst = none ∧
      (made = [] → t.tileIn = s.tileIn ∧ t.draws = s.draws) ∧ (made ≠ [] → t.tileIn = u.tileIn ∧ t.draws = u.draws) ∧
      t.log = s.log ∧ t.hostIn = rest ∧ t.hostOut = s.hostOut ∧ t.inp = s.inp ∧ t.par = s.par

/-- R291's values at reset: the host registers, the sequencer, the converter record absent, the poll timer not running, no
converter field written. -/
def Obligations.ResetValues : Prop :=
  State.reset.cmd = 0 ∧ statusWord State.reset = 0x00000002 ∧ State.reset.arg0L = 0 ∧ State.reset.arg0H = 0 ∧
  State.reset.arg1 = 0 ∧ State.reset.arg2 = 0 ∧ State.reset.res0 = 0 ∧ State.reset.res1 = 0 ∧ State.reset.res2 = 0 ∧
  State.reset.res3 = 0 ∧ capWord State.reset = 0 ∧ State.reset.seq = .idle ∧ State.reset.cmdL = 0 ∧
  State.reset.argL = { arg0L := 0, arg0H := 0, arg1 := 0, arg2 := 0 } ∧ State.reset.idx = 0 ∧ State.reset.lastIdx = 0 ∧
  State.reset.endEff = 0 ∧ State.reset.retry = 0 ∧ State.reset.inst = none ∧ State.reset.timer = false ∧
  ∀ a : FieldAddr, Memory.lookup State.reset.conv a.key = none

/-! ## Invariants -/

/-- The invariant holds at reset. -/
def Obligations.InvHoldsAtReset : Prop := State.reset.Inv

/-- Every step, of the engine or of the host, keeps the invariant: the converter fields' canonical form and widths, `BUSY` and
`DONE` never both, only the error codes some rule raises, the walk and its polls within their bounds, and the converter
record's ranges (R21, R22, R35, R109, R115, R116, R260, R272), and the constraints of R172, R174 and R204 on the parameters. That
`INIT` leaves no DAC block in calibration mode 1 (R32) rests on log entry 29. -/
def Obligations.StepKeepsInv : Prop := ∀ s t : State, s.Inv → step s = .next t → t.Inv

/-- From a state that meets the invariant no step faults: the model's one fault is the walk state without a tile, which R22's
bounds exclude. -/
def Obligations.InvStatesNeverFault : Prop := ∀ s : State, s.Inv → neverFaults s

/-! ## The register-access port (20_memory.md) -/

/-- R63's primitives. Over a register's content: `ReadRegister` gives it whole, `WriteRegister` the low bits of the value; a field reads
back the low bits of what was written to it, and a field that does not overlap it is unchanged. Over the machine's own fields: a
`PortWrite` of a held field is read back cut to its width, leaves every other field alone, and is one recorded access; a `PortRead`
is one recorded access and changes nothing (R66, R73). -/
def Obligations.FieldPrimitivesOverRegisters : Prop :=
  (∀ (w : Nat) (c v : BitVec w) (x : Word),
    readRegister c = c ∧ (writeRegister w x).toNat = x.toNat % 2 ^ w ∧ readMasked c v = c &&& v ∧
      readRegister (writeRegister w v) = v ∧ ∀ n sh, n + sh ≤ w →
        regFieldRead n sh (regFieldWrite n sh c v) = (v.setWidth n).setWidth w ∧
        ∀ n' sh' : Nat, n' + sh' ≤ w → sh + n ≤ sh' ∨ sh' + n' ≤ sh →
          regFieldRead n' sh' (regFieldWrite n sh c v) = regFieldRead n' sh' c) ∧
  ∀ (a : FieldAddr) (v : Word) (s : State), Memory.wf s.conv = true →
    (a.notHeld = false → (fieldValue a (portWrite a v s)).toNat = v.toNat % 2 ^ a.width s.par) ∧
    (∀ a', a' ≠ a → fieldValue a' (portWrite a v s) = fieldValue a' s) ∧
    (∃ m, portWrite a v s = { s with conv := m, port := s.port ++ [.write a v] } ∧ Memory.wf m = true) ∧
    portRead a s = { s with port := s.port ++ [.read a (fieldValue a s)] }

/-! ## Errors and frames (60_exceptions.md) -/

/-- Taking an error (R261, R274, R275): what posting an error writes, its code in R260's numbering, the RESTART information, one
`ERROR` event, and that nothing else changes: no result register, nothing of the converter record or the converter fields. -/
def Obligations.ErrorPosting : Prop :=
  ∀ (s : State) (e : Err) (info : Option FailInfo),
    (raise e info s).seq = .idle ∧ (raise e info s).timer = false ∧ (raise e info s).status.busy = false ∧
    (raise e info s).status.done = true ∧ (raise e info s).status.err.toNat =
      (match e with
        | .invalidArgument => 1
        | .blockUnavailable => 2
        | .tileUnavailable => 3
        | .digitalPathDisabled => 4
        | .unsupportedOnSiliconGeneration => 5
        | .timeout => 6
        | .inconsistentConfiguration => 7
        | .invalidFactor => 8
        | .unsupportedChannel => 9
        | .notInitialized => 10
        | .illegalCommand => 11) ∧
    (info = none → (raise e info s).status.failTile = 0 ∧ (raise e info s).status.failTileValid = false ∧
      (raise e info s).status.timeoutKind = false) ∧
    (∀ i, info = some i → (raise e info s).status.failTile.toNat = i.tile.val ∧ (raise e info s).status.failTileValid = true ∧
      ((raise e info s).status.timeoutKind = true ↔ i.poll = some .clear)) ∧
    (∃ v, (raise e info s).log = s.log ++ [v] ∧ v.level = .error ∧ v.name = .failed e) ∧
    (raise e info s).inst = s.inst ∧ (raise e info s).conv = s.conv ∧ (raise e info s).port = s.port ∧
    ResultsKept s (raise e info s) ∧ EngineFrame s (raise e info s)

/-- Every command but RESTART that ends with an error has changed no converter field, no field of the converter record and no
result register (R261, R263). -/
def Obligations.ErrorsChangeNothingElse : Prop :=
  ∀ (i : Instr) (s t : State), isRestart i = false → exec i s = .next t → t.status.err ≠ 0 →
    t.inst = s.inst ∧ t.conv = s.conv ∧ ResultsKept s t ∧ EngineFrame s t ∧
      t.status.failTile = 0 ∧ t.status.failTileValid = false ∧ t.status.timeoutKind = false

/-- Every command but RESTART ends in one step and leaves the command and operand registers, the latches, the walk's registers,
the queues, the inputs and the parameters alone (R22, R23, R305). That it is one step is the model's choice (log entry 12). -/
def Obligations.CommandsEndInOneStep : Prop :=
  ∀ (i : Instr) (s : State), isRestart i = false →
    ∃ t, exec i s = .next t ∧ t.seq = .idle ∧ t.status.busy = false ∧ t.status.done = true ∧ EngineFrame s t

/-- The getters change no converter field and nothing of the converter record (R146, R175, R209, R216, R246). -/
def Obligations.GettersChangeNoConfiguration : Prop :=
  ∀ (k : Kind) (tl : BitVec 3) (b : Fin 4) (ch : Channel) (i : Instr) (s t : State),
    i = .getStatus k tl b ∨ i = .getPair k tl b ∨ i = .getRate k tl b ch ∨ i = .getMixer k tl b ∨ i = .getNyquist k tl b →
    exec i s = .next t → t.inst = s.inst ∧ t.conv = s.conv

/-! ## INIT and GET_STATUS (45_system.md) -/

/-- INIT of a valid snapshot: the converter record is the snapshot's, with the resolver's pairs, and no converter field is
written (R240, R242, R243). The category of a mixer mode is given by R141's table: IQ for C2C, for R2C on an ADC, for C2R on a DAC. -/
def Obligations.InitLoadsSnapshot : Prop :=
  ∀ s : State, validSnapshot s.inp = true →
    ∃ t c, exec .init s = .next t ∧ PostedOk s t ∧ EngineFrame s t ∧ ResultsKept s t ∧ t.conv = s.conv ∧ t.port = s.port ∧ t.log = s.log ∧
      t.inst = some c ∧ c.gen = s.inp.snapshot.gen ∧
      (∀ k n, c.tileAt k n = (s.inp.snapshot.tile.get k).get n) ∧
      (∀ k n b, c.anaAt k n b = ((s.inp.snapshot.ana.get k).get n).get b) ∧
      (∀ k n b, (c.blkAt k n b).dtype = (((s.inp.snapshot.blk.get k).get n).get b).dtype ∧
        (c.blkAt k n b).mix = (((s.inp.snapshot.blk.get k).get n).get b).mix ∧
        (c.blkAt k n b).rateLive = (((s.inp.snapshot.blk.get k).get n).get b).rateLive ∧
        (c.blkAt k n b).rateObs = (((s.inp.snapshot.blk.get k).get n).get b).rateObs ∧
        (c.blkAt k n b).dpMode = (((s.inp.snapshot.blk.get k).get n).get b).dpMode) ∧
      ∀ k n b, ((c.blkAt k n b).connI, (c.blkAt k n b).connQ) =
        pair
          (if (((s.inp.snapshot.blk.get k).get n).get b).mix.mode = .c2c ∨
              (k = .adc ∧ (((s.inp.snapshot.blk.get k).get n).get b).mix.mode = .r2c) ∨
              (k = .dac ∧ (((s.inp.snapshot.blk.get k).get n).get b).mix.mode = .c2r) then .iq else .real)
          ((s.inp.snapshot.tile.get k).get n).mb b (if s.inp.hs k n then 2 else 4)

/-- Which snapshots are valid, item by item, and that INIT of any other ends with `InconsistentConfiguration` and keeps the
converter record (R241). Item (c)'s enumerations are the model's `badEnum` (log entry 3), and that a DAC block's calibration mode
other than 2 (R32) fails item (c) is the model's reading (log entry 29). -/
def Obligations.SnapshotValidity : Prop :=
  ∀ s : State,
    (validSnapshot s.inp = true ↔
      1 ≤ s.inp.snapshot.gen ∧ s.inp.snapshot.gen ≤ 15 ∧ s.inp.snapshot.badEnum = false ∧
      (∀ k n, ((s.inp.snapshot.tile.get k).get n).pwr ≤ 15 ∧
        (s.inp.tileOn k n = true →
          1 ≤ ((s.inp.snapshot.tile.get k).get n).fs ∧ ((s.inp.snapshot.tile.get k).get n).fs ≤ 2 ^ 47 - 1)) ∧
      ∀ k n b,
        ((((s.inp.snapshot.blk.get k).get n).get b).mix.type = .off ↔ (((s.inp.snapshot.blk.get k).get n).get b).mix.mode = .off) ∧
        (((s.inp.snapshot.blk.get k).get n).get b).rateLive ∈ factors ∧ (((s.inp.snapshot.blk.get k).get n).get b).rateObs ∈ factors ∧
        (k = .adc → (((s.inp.snapshot.blk.get k).get n).get b).dpMode = .normal) ∧
        (k = .dac → (((s.inp.snapshot.ana.get k).get n).get b).cal = .mode2)) ∧
    (validSnapshot s.inp = false →
      ∃ t, exec .init s = .next t ∧ t = raise .inconsistentConfiguration none s ∧ t.inst = s.inst ∧ t.status.err = 7)

/-- GET_STATUS on an enabled tile: the status word bit field by bit field, and the sample rate (R246, R247). -/
def Obligations.GetStatusPosts : Prop :=
  ∀ (k : Kind) (tl : BitVec 3) (n b p : Fin 4) (s : State) (c : Converter), s.inst = some c → tl.toNat = n.val →
    p = phys s.inp c k n b →
    (s.inp.tileOn k n = true →
      ∃ t, exec (.getStatus k tl b) s = .next t ∧ PostedOk s t ∧ EngineFrame s t ∧ t.inst = s.inst ∧ t.conv = s.conv ∧ t.log = s.log ∧ t.res3 = s.res3 ∧
        t.res0.extractLsb' 0 1 = BitVec.ofBool (s.inp.blockOn k n b) ∧
        t.res0.extractLsb' 1 1 = BitVec.ofBool (s.inp.pathOn k n b) ∧
        t.res0.extractLsb' 2 1 = BitVec.ofBool (s.inp.hs k n) ∧
        (t.res0.extractLsb' 3 1 = 1#1 ↔ (c.tileAt k n).clkSrc = .internalPll) ∧
        t.res0.extractLsb' 4 4 = BitVec.ofNat 4 (c.tileAt k n).pwr ∧
        t.res0.extractLsb' 8 6 = (fieldValue (.blk (.rateFactor .live) k n p) s).extractLsb' 0 6 ∧
        t.res0.extractLsb' 14 4 = (fieldValue (.blk (.fabricRate .live) k n p) s).extractLsb' 0 4 ∧
        t.res0.extractLsb' 18 2 = typeCode (c.blkAt k n b).mix.type ∧
        t.res0.extractLsb' 20 3 = modeCode (c.blkAt k n b).mix.mode ∧
        (t.res0.extractLsb' 23 1 = 1#1 ↔ (c.blkAt k n b).dtype = .iq) ∧
        t.res0.extractLsb' 24 8 = 0#8 ∧
        t.res2 ++ t.res1 = BitVec.ofNat 64 (c.tileAt k n).fs ∧
        t.port = s.port ++ [.read (.blk (.rateFactor .live) k n p) (fieldValue (.blk (.rateFactor .live) k n p) s),
          .read (.blk (.fabricRate .live) k n p) (fieldValue (.blk (.fabricRate .live) k n p) s)]) ∧
    (s.inp.tileOn k n = false → exec (.getStatus k tl b) s = .next (raise .tileUnavailable none s))

/-! ## The pairing resolver (42_pairing.md) -/

/-- The pair function's table (R143), for every block; -1 is the absent index. -/
def Obligations.PairTable : Prop :=
  ∀ b : Fin 4, ∀ sl : Nat,
    pair .real .single b sl = (some b, none) ∧
    pair .real .mb2x b sl = (some (if b.val < 2 then 0 else 2), none) ∧
    pair .real .mb4x b sl = (some 0, none) ∧
    pair .iq .single b sl = (if b.val < 2 then (some 0, some 1) else (some 2, some 3)) ∧
    pair .iq .mb2x b sl = (if b.val < 2 then (some 0, some 1) else (some 2, some 3)) ∧
    pair .iq .mb4x b 4 = (some 0, some 1) ∧ pair .iq .mb4x b 2 = (some 0, some 2)

/-- R147 and R148: connQ is -1 exactly for a REAL category and in 1..3 otherwise; connI is even but for a single-band REAL
block, where it is the block; and connI < connQ in every IQ pair. -/
def Obligations.PairMembers : Prop :=
  ∀ (cat : Category) (mb : MultiBand) (b : Fin 4) (sl : Nat), sl = 2 ∨ sl = 4 →
    ((pair cat mb b sl).2 = none ↔ cat = .real) ∧
    ∃ i, (pair cat mb b sl).1 = some i ∧
      (cat = .iq ∨ mb ≠ .single → i = 0 ∨ i = 2) ∧ (cat = .real → mb = .single → i = b) ∧
      ∀ q, (pair cat mb b sl).2 = some q → i < q ∧ 1 ≤ q.val

/-- RESOLVE_PAIR writes the resolver's pair of the addressed block, and nothing else of the converter record, with no availability
check and no port access (R144). -/
def Obligations.ResolvePairWritesOnePair : Prop :=
  ∀ (k : Kind) (tl : BitVec 3) (n b : Fin 4) (code : BitVec 2) (mb : MultiBand) (cat : Category) (s : State) (c : Converter),
    s.inst = some c → tl.toNat = n.val → (code = 0 ∧ mb = .single ∨ code = 1 ∧ mb = .mb2x ∨ code = 2 ∧ mb = .mb4x) →
    ∃ t d, exec (.resolvePair k tl b code cat) s = .next t ∧ PostedOk s t ∧ EngineFrame s t ∧ t.inst = some d ∧
      ((d.blkAt k n b).connI, (d.blkAt k n b).connQ) = pair cat mb b (if s.inp.hs k n then 2 else 4) ∧
      (d.blkAt k n b).dtype = (c.blkAt k n b).dtype ∧ (d.blkAt k n b).mix = (c.blkAt k n b).mix ∧
      (d.blkAt k n b).rateLive = (c.blkAt k n b).rateLive ∧ (d.blkAt k n b).rateObs = (c.blkAt k n b).rateObs ∧
      (d.blkAt k n b).dpMode = (c.blkAt k n b).dpMode ∧
      (∀ k' n' b', ¬(k' = k ∧ n' = n ∧ b' = b) → d.blkAt k' n' b' = c.blkAt k' n' b') ∧
      d.gen = c.gen ∧ (∀ k' n', d.tileAt k' n' = c.tileAt k' n') ∧ (∀ k' n' b', d.anaAt k' n' b' = c.anaAt k' n' b') ∧
      t.res0.extractLsb' 0 8 = connByte (d.blkAt k n b).connI ∧ t.res0.extractLsb' 8 8 = connByte (d.blkAt k n b).connQ ∧
      t.res0.extractLsb' 16 16 = 0#16 ∧ t.res1 = s.res1 ∧ t.res2 = s.res2 ∧ t.res3 = s.res3 ∧
      t.conv = s.conv ∧ t.port = s.port ∧ t.log = s.log

/-- GET_PAIR posts the block's pair: [7:0] connI, [15:8] connQ, 0xFF for -1 (R146, R98). -/
def Obligations.GetPairPosts : Prop :=
  ∀ (k : Kind) (tl : BitVec 3) (n b : Fin 4) (s : State) (c : Converter), s.inst = some c → tl.toNat = n.val →
    ∃ t, exec (.getPair k tl b) s = .next t ∧ PostedOk s t ∧ EngineFrame s t ∧
      (∀ i : Fin 4, (c.blkAt k n b).connI = some i → t.res0.extractLsb' 0 8 = BitVec.ofNat 8 i.val) ∧
      ((c.blkAt k n b).connI = none → t.res0.extractLsb' 0 8 = 0xFF#8) ∧
      (∀ i : Fin 4, (c.blkAt k n b).connQ = some i → t.res0.extractLsb' 8 8 = BitVec.ofNat 8 i.val) ∧
      ((c.blkAt k n b).connQ = none → t.res0.extractLsb' 8 8 = 0xFF#8) ∧
      t.res0.extractLsb' 16 16 = 0#16 ∧ t.res1 = s.res1 ∧ t.res2 = s.res2 ∧ t.res3 = s.res3 ∧
      t.inst = s.inst ∧ t.conv = s.conv ∧ t.port = s.port ∧ t.log = s.log

/-! ## The block map (10_state.md) -/

/-- The physical block a logical block addresses (R36), by tile class, parity and pairing. -/
def Obligations.PhysicalBlockMap : Prop :=
  ∀ (i : Inputs) (c : Converter) (k : Kind) (t b : Fin 4),
    (i.hs k t = false → phys i c k t b = b) ∧
    (i.hs k t = true → b = 0 ∨ b = 2 → phys i c k t b = b) ∧
    (i.hs k t = true → b = 1 ∨ b = 3 → (c.blkAt k t b).connQ ≠ none → phys i c k t b = b) ∧
    (i.hs k t = true → b = 1 ∨ b = 3 → (c.blkAt k t b).connQ = none → phys i c k t b = 2)

/-- The physical blocks a per-block write reaches (R37): one block, or an even block and the odd one after it on a high-speed
tile. -/
def Obligations.WriteSpan : Prop :=
  ∀ (i : Inputs) (c : Converter) (k : Kind) (t b : Fin 4),
    (i.hs k t = false → span i c k t b = [b]) ∧
    (i.hs k t = true → phys i c k t b = 0 → span i c k t b = [0, 1]) ∧
    (i.hs k t = true → phys i c k t b = 2 → span i c k t b = [2, 3]) ∧
    (i.hs k t = true → phys i c k t b = 1 ∨ phys i c k t b = 3 → span i c k t b = [phys i c k t b])

/-- On a high-speed ADC tile, commands on an unpaired logical block 1 match the same commands on block 2 (R176(f), R218): GET_RATE
posts the same and SET_RATE leaves the same converter fields and outcome; so do SET_MIXER, SET_NYQUIST and GET_NYQUIST when the two
blocks hold the same analog settings, and GET_MIXER when they also hold the same persisted frequency and the fields it reads stand for
settings of their own, so that nothing else persisted is reported. -/
def Obligations.HighSpeedAliasMatchesBlockTwo : Prop :=
  ∀ (tl : BitVec 3) (n : Fin 4) (ch : Channel) (f : BitVec 6) (z : BitVec 2) (s : State) (c : Converter),
    s.inst = some c → tl.toNat = n.val → s.inp.hs .adc n = true → (c.blkAt .adc n 1).connQ = none →
    s.inp.tileOn .adc n = true → s.inp.blockOn .adc n 1 = true → s.inp.blockOn .adc n 2 = true →
    s.inp.pathOn .adc n 1 = true → s.inp.pathOn .adc n 2 = true →
    (∃ t u, exec (.getRate .adc tl 1 ch) s = .next t ∧ exec (.getRate .adc tl 2 ch) s = .next u ∧ t.res0 = u.res0 ∧ t.status = u.status ∧ t.port = u.port) ∧
    (∃ t u, exec (.setRate .adc tl 1 ch f) s = .next t ∧ exec (.setRate .adc tl 2 ch f) s = .next u ∧ t.conv = u.conv ∧ t.status = u.status ∧ t.port = u.port) ∧
    (c.anaAt .adc n 1 = c.anaAt .adc n 2 →
      (∃ t u, exec (.setMixer .adc tl 1) s = .next t ∧ exec (.setMixer .adc tl 2) s = .next u ∧ t.conv = u.conv ∧ t.status = u.status ∧ t.port = u.port) ∧
      (∃ t u, exec (.setNyquist .adc tl 1 z) s = .next t ∧ exec (.setNyquist .adc tl 2 z) s = .next u ∧ t.conv = u.conv ∧ t.status = u.status ∧ t.port = u.port) ∧
      (∃ t u, exec (.getNyquist .adc tl 1) s = .next t ∧ exec (.getNyquist .adc tl 2) s = .next u ∧ t.res0 = u.res0 ∧ t.status = u.status ∧ t.port = u.port) ∧
      ((c.blkAt .adc n 1).mix.freq = (c.blkAt .adc n 2).mix.freq →
        mixerDec s.par (fieldValue (.blk .mixCoarse .adc n 2) s) (fieldValue (.blk .mixFine .adc n 2) s) true false ≠ none →
        ((fieldValue (.blk .mixEvt .adc n 2) s).extractLsb' 0 3).toNat ≤ 4 → (fieldValue (.blk .mixScale .adc n 2) s).extractLsb' 0 2 ≠ 3 →
        ∃ t u, exec (.getMixer .adc tl 1) s = .next t ∧ exec (.getMixer .adc tl 2) s = .next u ∧ t.res0 = u.res0 ∧ t.res1 = u.res1 ∧
          t.res2 = u.res2 ∧ t.res3 = u.res3 ∧ t.status = u.status ∧ t.port = u.port))

/-! ## The rate-factor engine (43_rate_fifo.md) -/

/-- The rate-factor codes (R161): the factor itself from generation 3; 0, 1, 2, 3, 4 for OFF, 1, 2, 4, 8 before; and decoding a legal
factor's code gives the factor. -/
def Obligations.FactorCodes : Prop :=
  (∀ f g : Nat, 3 ≤ g → factorCode f g = f) ∧
  (∀ g : Nat, g < 3 → factorCode 0 g = 0 ∧ factorCode 1 g = 1 ∧ factorCode 2 g = 2 ∧ factorCode 4 g = 3 ∧ factorCode 8 g = 4) ∧
  (∀ f g : Nat, legalFactor f g = true → factorDecode (factorCode f g) g = some f) ∧
  (∀ c g : Nat, 3 ≤ g → c ∉ factors → factorDecode c g = none) ∧
  (∀ c g : Nat, g < 3 → 4 < c → factorDecode c g = none)

/-- SET_RATE (R164) with its checks passed: the factor code over the span, the persisted factor, the FIFO width from the data type
the field holds, the clock gating of R173, the port accesses in R164's order, and nothing else. -/
def Obligations.SetRateProgramsSpan : Prop :=
  ∀ (k : Kind) (tl : BitVec 3) (n b : Fin 4) (ch : Channel) (factor : BitVec 6) (s : State) (c : Converter),
    Memory.wf s.conv = true → s.inst = some c → tl.toNat = n.val →
    s.inp.tileOn k n = true → s.inp.blockOn k n b = true → s.inp.pathOn k n b = true →
    (ch = .obs → k = .adc ∧ 3 ≤ c.gen) → legalFactor factor.toNat c.gen = true →
    ∃ t d, exec (.setRate k tl b ch factor) s = .next t ∧ PostedOk s t ∧ EngineFrame s t ∧ ResultsKept s t ∧ t.log = s.log ∧
      t.inst = some d ∧ (d.blkAt k n b).rate ch = factor.toNat ∧ d = c.setBlk k n b ((c.blkAt k n b).setRate ch factor.toNat) ∧
      (∀ p ∈ span s.inp c k n b,
        fieldValue (.blk (.rateFactor ch) k n p) t = BitVec.ofNat 32 (factorCode factor.toNat c.gen) ∧
        fieldValue (.blk (.fabricRate ch) k n p) t =
          lowBits 4 (BitVec.ofNat 32 (fifoWidth s.par factor.toNat
            (dtypeOf (fieldValue (.blk .rateDtype k n (phys s.inp c k n b)) s)) (s.inp.hs k n))) ∧
        (3 ≤ c.gen → factor ≠ 0 →
          fieldValue (.blk .cgDelay k n p) t =
            lowBits s.par.cgDelayBits
              (if factor.toNat ∈ [1, 2, 4, 8, 16] then s.par.cgDelayPow2 else s.par.cgDelayExt) ∧
          fieldValue (.blk .cgSyncEn k n p) t = 1)) ∧
      FieldsKept (fun a => ∃ p ∈ span s.inp c k n b, a = .blk (.rateFactor ch) k n p ∨ a = .blk (.fabricRate ch) k n p ∨
        ((3 ≤ c.gen ∧ factor ≠ 0) ∧ (a = .blk .cgDelay k n p ∨ a = .blk .cgSyncEn k n p))) s t ∧
      t.port = s.port ++
        (span s.inp c k n b).map (fun p => .write (.blk (.rateFactor ch) k n p) (BitVec.ofNat 32 (factorCode factor.toNat c.gen))) ++
        recomputeAccesses s.par s.inp c k n b ch (BitVec.ofNat 32 (factorCode factor.toNat c.gen))
          (fieldValue (.blk .rateDtype k n (phys s.inp c k n b)) s) ++
        (if 3 ≤ c.gen ∧ factor ≠ 0 then
          (span s.inp c k n b).map (fun p => .write (.blk .cgDelay k n p)
            (if factor.toNat ∈ [1, 2, 4, 8, 16] then s.par.cgDelayPow2 else s.par.cgDelayExt)) ++
          (span s.inp c k n b).map (fun p => .write (.blk .cgSyncEn k n p) 1)
        else [])

/-- R178: after a successful SET_RATE every block of the span holds the FIFO width of the factor and of the data type the physical
block then holds. The parameters meet R172. And R169's table of that width: 0 for OFF, the IQ-or-high-speed column, and the
plain-real column, which is the implementation's row for the factor or else the default's. -/
def Obligations.FifoWidthTracksRate : Prop :=
  (∀ (par : Params) (f : Nat) (dt : Category) (hs : Bool), f ∈ factors →
    (f = 0 → fifoWidth par f dt hs = 0) ∧
    (f ≠ 0 → dt = .iq ∨ hs = true →
      fifoWidth par f dt hs =
        if f = 1 then 8 else if f = 2 ∨ f = 3 then 4 else if f = 4 ∨ f = 5 ∨ f = 6 then 2 else if hs = true then 2 else 1) ∧
    (f ≠ 0 → dt = .real → hs = false → (∀ r ∈ par.fabricReal, r.1 ≠ f) →
      fifoWidth par f dt hs = if f = 1 then 4 else if f = 2 ∨ f = 3 then 2 else 1) ∧
    ∀ (before after : List (Nat × Nat)) (w : Nat), f ≠ 0 → dt = .real → hs = false →
      par.fabricReal = before ++ (f, w) :: after → (∀ r ∈ before, r.1 ≠ f) → fifoWidth par f dt hs = w) ∧
  ∀ (k : Kind) (tl : BitVec 3) (n b : Fin 4) (ch : Channel) (factor : BitVec 6) (s t : State) (c : Converter),
    Memory.wf s.conv = true → ParamsOk s.par → s.inst = some c → tl.toNat = n.val →
    exec (.setRate k tl b ch factor) s = .next t → t.status.err = 0 →
    ∀ q ∈ span s.inp c k n b,
      fieldValue (.blk (.fabricRate ch) k n q) t =
        BitVec.ofNat 32 (fifoWidth s.par factor.toNat
          (dtypeOf (fieldValue (.blk .rateDtype k n (phys s.inp c k n b)) t)) (s.inp.hs k n))

/-- The errors of the per-block commands in their order (R163, R164, R175, R191): for each of the six, tile, block, digital path; then
the channel for SET_RATE and GET_RATE; then the factor for SET_RATE. -/
def Obligations.PerBlockErrorsInOrder : Prop :=
  ∀ (k : Kind) (tl : BitVec 3) (n b : Fin 4) (s : State) (c : Converter), s.inst = some c → tl.toNat = n.val →
    (∀ i : Instr,
      ((∃ ch f, i = .setRate k tl b ch f) ∨ (∃ ch, i = .getRate k tl b ch) ∨ i = .setMixer k tl b ∨ i = .getMixer k tl b ∨
        i = .setNyquist k tl b 1 ∨ i = .setNyquist k tl b 2 ∨ i = .getNyquist k tl b) →
      (s.inp.tileOn k n = false → exec i s = .next (raise .tileUnavailable none s)) ∧
      (s.inp.tileOn k n = true → s.inp.blockOn k n b = false → exec i s = .next (raise .blockUnavailable none s)) ∧
      (s.inp.tileOn k n = true → s.inp.blockOn k n b = true → s.inp.pathOn k n b = false →
        exec i s = .next (raise .digitalPathDisabled none s))) ∧
    (s.inp.tileOn k n = true → s.inp.blockOn k n b = true → s.inp.pathOn k n b = true →
      ∀ (ch : Channel) (factor : BitVec 6),
        (ch = .obs ∧ (k = .dac ∨ c.gen < 3) →
          exec (.setRate k tl b ch factor) s = .next (raise .unsupportedChannel none s) ∧
          exec (.getRate k tl b ch) s = .next (raise .unsupportedChannel none s)) ∧
        ((ch = .obs → k = .adc ∧ 3 ≤ c.gen) →
          factor.toNat ∉ [0, 1, 2, 3, 4, 5, 6, 8, 10, 12, 16, 20, 24, 40] ∨ (c.gen < 3 ∧ factor.toNat ∉ [0, 1, 2, 4, 8]) →
          exec (.setRate k tl b ch factor) s = .next (raise .invalidFactor none s)))

/-- GET_RATE (R175): the decoded factor of the physical block's code, or `InconsistentConfiguration` for a code with no decode. -/
def Obligations.GetRatePosts : Prop :=
  ∀ (k : Kind) (tl : BitVec 3) (n b : Fin 4) (ch : Channel) (s : State) (c : Converter) (x : Nat),
    s.inst = some c → tl.toNat = n.val →
    s.inp.tileOn k n = true → s.inp.blockOn k n b = true → s.inp.pathOn k n b = true → (ch = .obs → k = .adc ∧ 3 ≤ c.gen) →
    x = (fieldValue (.blk (.rateFactor ch) k n (phys s.inp c k n b)) s).toNat →
    (∀ f, factorDecode x c.gen = some f →
      ∃ t, exec (.getRate k tl b ch) s = .next t ∧ PostedOk s t ∧ EngineFrame s t ∧ t.res0 = BitVec.ofNat 32 f ∧
        t.res1 = s.res1 ∧ t.res2 = s.res2 ∧ t.res3 = s.res3 ∧ t.inst = s.inst ∧ t.conv = s.conv ∧ t.log = s.log ∧
        t.port = s.port ++ [.read (.blk (.rateFactor ch) k n (phys s.inp c k n b)) (BitVec.ofNat 32 x)]) ∧
    (factorDecode x c.gen = none →
      ∃ t, exec (.getRate k tl b ch) s = .next t ∧ t.status.err = 7 ∧ t.seq = .idle ∧ t.inst = s.inst ∧ t.conv = s.conv ∧
        ResultsKept s t)

/-- The rate round trip (R177): after a successful SET_RATE, GET_RATE on the same block and channel posts that factor, from any later
state of the same generation and block map in which no command has written that field since. -/
def Obligations.RateRoundTrip : Prop :=
  ∀ (k : Kind) (tl : BitVec 3) (n b : Fin 4) (ch : Channel) (factor : BitVec 6) (s t u : State) (c d : Converter),
    Memory.wf s.conv = true → s.inst = some c → tl.toNat = n.val →
    exec (.setRate k tl b ch factor) s = .next t → t.status.err = 0 →
    u.inst = some d → d.gen = c.gen → u.inp = s.inp → phys s.inp d k n b = phys s.inp c k n b →
    fieldValue (.blk (.rateFactor ch) k n (phys s.inp c k n b)) u = fieldValue (.blk (.rateFactor ch) k n (phys s.inp c k n b)) t →
    ∃ v, exec (.getRate k tl b ch) u = .next v ∧ v.status.err = 0 ∧ v.res0 = BitVec.ofNat 32 factor.toNat ∧ v.conv = u.conv

/-! ## The mixer and NCO (44_mixer_nco.md) -/

/-- SET_MIXER (R190) with its checks passed: the eleven fields over the span, the recomputed FIFO widths, the persisted request, the
update pulse exactly for an immediate event, the port accesses in R203's order, and nothing else. Before it, what its names mean: the
settings word's layout and codes (R87 to R92), half the effective rate in quarter hertz (R195), the compensation and the swap (R198). -/
def Obligations.SetMixerProgramsSpan : Prop :=
  (∀ (w : Word) (x : Settings), settingsOf w = some x ↔
    w.extractLsb' 13 19 = 0#19 ∧ w.extractLsb' 0 2 = typeCode x.type ∧ w.extractLsb' 2 3 = modeCode x.mode ∧
      w.extractLsb' 5 3 = selCode x.sel ∧ w.extractLsb' 8 3 = evtCode x.evt ∧ w.extractLsb' 11 2 = scaleCode x.scale) ∧
  (typeCode .off = 0 ∧ typeCode .coarse = 1 ∧ typeCode .fine = 2 ∧
    modeCode .off = 0 ∧ modeCode .c2c = 1 ∧ modeCode .c2r = 2 ∧ modeCode .r2c = 3 ∧ modeCode .r2r = 4 ∧
    selCode .off = 0 ∧ selCode .bypass = 1 ∧ selCode .fs2 = 2 ∧ selCode .fs4 = 3 ∧ selCode .mfs4 = 4 ∧
    evtCode .immediate = 0 ∧ evtCode .slice = 1 ∧ evtCode .sysref = 2 ∧ evtCode .pl = 3 ∧ evtCode .marker = 4 ∧
    scaleCode .auto = 0 ∧ scaleCode .s1p0 = 1 ∧ scaleCode .s0p7 = 2) ∧
  (swapSel .off = .off ∧ swapSel .bypass = .fs2 ∧ swapSel .fs2 = .bypass ∧ swapSel .fs4 = .mfs4 ∧ swapSel .mfs4 = .fs4) ∧
  (∀ (c : Converter) (k : Kind) (n b : Fin 4),
    (k = .dac ∧ (c.blkAt k n b).dpMode = .halfBwImr → halfRate c k n b = (c.tileAt k n).fs) ∧
    (¬(k = .dac ∧ (c.blkAt k n b).dpMode = .halfBwImr) → halfRate c k n b = 2 * (c.tileAt k n).fs) ∧
    (quirk c k n b = true ↔ k = .adc ∧ (c.gen = 1 ∨ c.gen = 2) ∧ (c.anaAt k n b).cal = .mode1)) ∧
  ∀ (k : Kind) (tl : BitVec 3) (n b : Fin 4) (s : State) (c : Converter) (x : Settings) (cat : Category),
    Memory.wf s.conv = true → s.inst = some c → tl.toNat = n.val →
    s.inp.tileOn k n = true → s.inp.blockOn k n b = true → s.inp.pathOn k n b = true →
    settingsOf s.argL.arg2 = some x → ¬(k = .dac ∧ (c.blkAt k n b).dpMode = .fullBwBypass) →
    (x.type = .off ↔ x.mode = .off) → ¬(x.type = .fine ∧ x.mode = .r2r) → ¬(x.type = .coarse ∧ x.sel = .off) →
    (k = .adc → x.evt ≠ .marker ∧ (s.inp.hs .adc n = true → x.evt ∈ s.par.hsEventSet)) →
    -180000 < s.argL.arg1.toInt → s.argL.arg1.toInt < 180000 →
    4 * |(freqArg s.argL).toInt| ≤ (halfRate c k n b : Int) →
    cat = (if x.mode = .c2c ∨ (k = .adc ∧ x.mode = .r2c) ∨ (k = .dac ∧ x.mode = .c2r) then .iq else .real) →
    ∃ t d, exec (.setMixer k tl b) s = .next t ∧ PostedOk s t ∧ EngineFrame s t ∧ ResultsKept s t ∧ t.log = s.log ∧
      t.inst = some d ∧ d = c.setBlk k n b (d.blkAt k n b) ∧
      (d.blkAt k n b).dtype = cat ∧ (d.blkAt k n b).mix.type = x.type ∧ (d.blkAt k n b).mix.mode = x.mode ∧
      (d.blkAt k n b).mix.sel = x.sel ∧ (d.blkAt k n b).mix.freq = s.argL.arg0H ++ s.argL.arg0L ∧
      (d.blkAt k n b).mix.phase = s.argL.arg1 ∧ (d.blkAt k n b).mix.evt = x.evt ∧ (d.blkAt k n b).mix.scale = x.scale ∧
      (d.blkAt k n b).rateLive = (c.blkAt k n b).rateLive ∧ (d.blkAt k n b).rateObs = (c.blkAt k n b).rateObs ∧
      (d.blkAt k n b).connI = (c.blkAt k n b).connI ∧ (d.blkAt k n b).connQ = (c.blkAt k n b).connQ ∧
      (d.blkAt k n b).dpMode = (c.blkAt k n b).dpMode ∧
      (∀ p ∈ span s.inp c k n b,
        fieldValue (.blk .rateDtype k n p) t = (if cat = .iq then 1 else 0) ∧
        freqWordAt k n p t = freqWord (freqArg s.argL) (halfRate c k n b) (quirk c k n b) (c.anaAt k n b).zone ∧
        phaseWordAt k n p t = phaseWord s.argL.arg1 ∧
        (fieldValue (.blk .ncoPhaseMid k n p) t).toNat < 2 ∧
        fieldValue (.blk .ncoPhaseUpp k n p) t = 0 ∧
        (fieldValue (.blk .mixCoarse k n p) t, fieldValue (.blk .mixFine k n p) t) =
          mixerEnc s.par x.type x.mode (if quirk c k n b then swapSel x.sel else x.sel) (s.inp.hs k n) (p.val % 2 == 1) ∧
        fieldValue (.blk .mixScale k n p) t = (scaleCode x.scale).setWidth 32 ∧
        fieldValue (.blk .mixEvt k n p) t = (evtCode x.evt).setWidth 32 ∧
        (∀ ch f, (ch = .obs → k = .adc ∧ 3 ≤ c.gen) →
          factorDecode (fieldValue (.blk (.rateFactor ch) k n (phys s.inp c k n b)) s).toNat c.gen = some f →
          fieldValue (.blk (.fabricRate ch) k n p) t = lowBits 4 (BitVec.ofNat 32 (fifoWidth s.par f cat (s.inp.hs k n))))) ∧
      FieldsKept (fun a => ∃ p ∈ span s.inp c k n b, (∃ f ∈ mixerFields, a = .blk f k n p) ∨
        (∃ ch, a = .blk (.fabricRate ch) k n p ∧ (ch = .obs → k = .adc ∧ 3 ≤ c.gen) ∧
          factorDecode (fieldValue (.blk (.rateFactor ch) k n (phys s.inp c k n b)) s).toNat c.gen ≠ none)) s t ∧
      t.port = s.port ++
        (span s.inp c k n b).flatMap (fun p => mixerFields.map fun f => .write (.blk f k n p) (fieldValue (.blk f k n p) t)) ++
        (if x.evt = .immediate then (span s.inp c k n b).map (fun p => .write (.blk .mixUpdate k n p) 1) else []) ++
        recomputeAccesses s.par s.inp c k n b .live (fieldValue (.blk (.rateFactor .live) k n (phys s.inp c k n b)) s)
          (if cat = .iq then 1 else 0) ++
        (if k = .adc ∧ 3 ≤ c.gen then
          recomputeAccesses s.par s.inp c k n b .obs (fieldValue (.blk (.rateFactor .obs) k n (phys s.inp c k n b)) s)
            (if cat = .iq then 1 else 0)
        else [])

/-- SET_MIXER's own errors in their order, once the block is available (R192, R193, R194, R196). -/
def Obligations.SetMixerErrorsInOrder : Prop :=
  ∀ (k : Kind) (tl : BitVec 3) (n b : Fin 4) (s : State) (c : Converter), s.inst = some c → tl.toNat = n.val →
    s.inp.tileOn k n = true → s.inp.blockOn k n b = true → s.inp.pathOn k n b = true →
    (settingsOf s.argL.arg2 = none → exec (.setMixer k tl b) s = .next (raise .invalidArgument none s)) ∧
    ∀ x, settingsOf s.argL.arg2 = some x →
      (k = .dac ∧ (c.blkAt k n b).dpMode = .fullBwBypass ∨ ¬(x.type = .off ↔ x.mode = .off) ∨ (x.type = .fine ∧ x.mode = .r2r) ∨
          (x.type = .coarse ∧ x.sel = .off) →
        exec (.setMixer k tl b) s = .next (raise .inconsistentConfiguration none s)) ∧
      (¬(k = .dac ∧ (c.blkAt k n b).dpMode = .fullBwBypass) → (x.type = .off ↔ x.mode = .off) → ¬(x.type = .fine ∧ x.mode = .r2r) →
        ¬(x.type = .coarse ∧ x.sel = .off) →
        (k = .adc ∧ (x.evt = .marker ∨ (s.inp.hs .adc n = true ∧ x.evt ∉ s.par.hsEventSet))) ∨
          s.argL.arg1.toInt ≤ -180000 ∨ 180000 ≤ s.argL.arg1.toInt ∨
          (halfRate c k n b : Int) < 4 * |(freqArg s.argL).toInt| →
        exec (.setMixer k tl b) s = .next (raise .invalidArgument none s))

/-- The model's closed form of NORMALISE is R199's loops: one turn of a loop while the frequency is outside [-E/2, E/2], and no
adjustment inside it. Frequencies and h = E/2 in quarter hertz. -/
def Obligations.NormaliseFollowsLoops : Prop :=
  ∀ (f : Int) (h : Nat), 0 < h →
    (f < -(h : Int) → normalise f h = ((normalise (f + 2 * h) h).1, (normalise (f + 2 * h) h).2 + 1)) ∧
    ((h : Int) < f → normalise f h = ((normalise (f - 2 * h) h).1, (normalise (f - 2 * h) h).2 - 1)) ∧
    (-(h : Int) ≤ f → f ≤ h → normalise f h = (f, 0)) ∧
    (-(h : Int) ≤ (normalise f h).1 ∧ (normalise f h).1 ≤ h)

/-- The frequency word SET_MIXER writes (R199, R200). `x` is the frequency it encodes, in quarter hertz, for a legal request and
h = E/2: the request, less E/2 under the compensation, with E added where that falls below -E/2, then negated in the even zone. The
word is `x * 2^48 / E` truncated toward zero, never wrapped but at +E/2, whose word is -E/2's, 0x800000000000. -/
def Obligations.FrequencyWordRange : Prop :=
  ∀ (freq : BitVec 64) (h : Nat) (q : Bool) (z : Zone) (x : Int), 0 < h → 4 * |freq.toInt| ≤ (h : Int) →
    (q = false → x = 4 * freq.toInt) →
    (q = true → -(h : Int) ≤ 4 * freq.toInt - h → x = 4 * freq.toInt - h) →
    (q = true → 4 * freq.toInt - h < -(h : Int) → x = if z = .even then -(4 * freq.toInt + h) else 4 * freq.toInt + h) →
    -(h : Int) ≤ x ∧ x ≤ h ∧
    (x = h ∨ x = -(h : Int) → freqWord freq h q z = 0x800000000000#48) ∧
    (x < h →
      |x * 2 ^ 48 - (freqWord freq h q z).toInt * (2 * (h : Int))| < 2 * (h : Int) ∧
        |(freqWord freq h q z).toInt * (2 * (h : Int))| ≤ |x * 2 ^ 48|)

/-- The frequency round trip (R212(a)): what a legal frequency's word de-normalises to is the frequency, but for +E/2 with no
compensation, which reads back as -E/2. For every zone, compensated or not; h = E/2 in quarter hertz. -/
def Obligations.FrequencyRoundTrip : Prop :=
  ∀ (freq : BitVec 64) (h : Nat) (q : Bool) (z : Zone), 0 < h → h < 2 ^ 48 → 4 * |freq.toInt| ≤ (h : Int) →
    denormalise (freqWord freq h q z) h q freq z =
      if 4 * freq.toInt = (h : Int) ∧ q = false then -freq.toInt else freq.toInt

/-- The phase word and its readback (R201, R209, R212(b)). The phase the word stands for, before R209's rounding, is within one LSB of
the request and never further from zero. The readback, a whole millidegree, is never further from zero either, encodes to a word
within one unit of the request's word, and is within 3 millidegrees: R209's rounding (D7) exceeds one LSB by less than a
millidegree in corners, and is followed (log entry 22). -/
def Obligations.PhaseWordWithinOneLsb : Prop :=
  ∀ ph : BitVec 32, -180000 < ph.toInt → ph.toInt < 180000 →
    |ph.toInt * 2 ^ 16 - (phaseWord ph).toInt * 180000| < 180000 ∧ |(phaseWord ph).toInt * 180000| ≤ |ph.toInt * 2 ^ 16| ∧
    |phaseRead (phaseWord ph)| ≤ |ph.toInt| ∧ |ph.toInt - phaseRead (phaseWord ph)| ≤ 3 ∧
    |(phaseWord (BitVec.ofInt 32 (phaseRead (phaseWord ph)))).toInt - (phaseWord ph).toInt| ≤ 1

/-- GET_MIXER (R209): what it posts, from the physical block's fields and the current converter record, its nine reads in order, and
that it changes nothing else. The event and scale are the fields' codes, or the persisted values for a reserved code. -/
def Obligations.GetMixerPosts : Prop :=
  ∀ (k : Kind) (tl : BitVec 3) (n b p : Fin 4) (s : State) (c : Converter), s.inst = some c → tl.toNat = n.val →
    s.inp.tileOn k n = true → s.inp.blockOn k n b = true → s.inp.pathOn k n b = true → p = phys s.inp c k n b →
    ∃ t, exec (.getMixer k tl b) s = .next t ∧ PostedOk s t ∧ EngineFrame s t ∧ t.inst = s.inst ∧ t.conv = s.conv ∧ t.log = s.log ∧
      t.res1 ++ t.res0 =
        BitVec.ofInt 64 (denormalise (freqWordAt k n p s) (halfRate c k n b) (quirk c k n b) (c.blkAt k n b).mix.freq (c.anaAt k n b).zone) ∧
      t.res2 = BitVec.ofInt 32 (phaseRead (phaseWordAt k n p s)) ∧
      t.res3 = settingsWord (reportedSettings c k n b s) ∧
      (∀ ty md sl,
        mixerDec s.par (fieldValue (.blk .mixCoarse k n p) s) (fieldValue (.blk .mixFine k n p) s) (s.inp.hs k n) (p.val % 2 == 1) =
          some (ty, md, sl) →
        t.res3.extractLsb' 0 2 = typeCode ty ∧ t.res3.extractLsb' 2 3 = modeCode md ∧
        t.res3.extractLsb' 5 3 = selCode (if quirk c k n b then swapSel sl else sl)) ∧
      (mixerDec s.par (fieldValue (.blk .mixCoarse k n p) s) (fieldValue (.blk .mixFine k n p) s) (s.inp.hs k n) (p.val % 2 == 1) = none →
        t.res3.extractLsb' 0 2 = typeCode (c.blkAt k n b).mix.type ∧ t.res3.extractLsb' 2 3 = modeCode (c.blkAt k n b).mix.mode ∧
        t.res3.extractLsb' 5 3 = selCode (c.blkAt k n b).mix.sel) ∧
      (((fieldValue (.blk .mixEvt k n p) s).extractLsb' 0 3).toNat ≤ 4 →
        t.res3.extractLsb' 8 3 = (fieldValue (.blk .mixEvt k n p) s).extractLsb' 0 3) ∧
      (5 ≤ ((fieldValue (.blk .mixEvt k n p) s).extractLsb' 0 3).toNat →
        t.res3.extractLsb' 8 3 = evtCode (c.blkAt k n b).mix.evt) ∧
      ((fieldValue (.blk .mixScale k n p) s).extractLsb' 0 2 ≠ 3 →
        t.res3.extractLsb' 11 2 = (fieldValue (.blk .mixScale k n p) s).extractLsb' 0 2) ∧
      ((fieldValue (.blk .mixScale k n p) s).extractLsb' 0 2 = 3 →
        t.res3.extractLsb' 11 2 = scaleCode (c.blkAt k n b).mix.scale) ∧
      t.res3.extractLsb' 13 19 = 0#19 ∧
      t.port = s.port ++
        [BlockField.ncoFreqUpp, .ncoFreqMid, .ncoFreqLow, .ncoPhaseMid, .ncoPhaseLow, .mixCoarse, .mixFine, .mixEvt, .mixScale].map
          fun f => .read (.blk f k n p) (fieldValue (.blk f k n p) s)

/-- The mixer round trip (R212), with the default table: after a successful SET_MIXER, GET_MIXER posts the requested settings, the
requested frequency but for +E/2 with no compensation, and the readback of the phase word; from any later state in which no command has
changed the block's mixer fields or what R212 names of the converter record. For type OFF the selector posted is OFF, which is how
R211 reads its field pair (log entry 8). -/
def Obligations.MixerRoundTrip : Prop :=
  ∀ (k : Kind) (tl : BitVec 3) (n b : Fin 4) (s t u : State) (c d e : Converter) (x : Settings),
    Memory.wf s.conv = true → DefaultMixerTable s.par → s.inst = some c → tl.toNat = n.val →
    0 < halfRate c k n b → halfRate c k n b < 2 ^ 48 → settingsOf s.argL.arg2 = some x →
    exec (.setMixer k tl b) s = .next t → t.status.err = 0 → t.inst = some d →
    u.inst = some e → u.inp = s.inp → u.par = s.par → e.gen = c.gen → (e.tileAt k n).fs = (c.tileAt k n).fs →
    e.anaAt k n b = c.anaAt k n b → e.blkAt k n b = d.blkAt k n b →
    (∀ f, fieldValue (.blk f k n (phys s.inp c k n b)) u = fieldValue (.blk f k n (phys s.inp c k n b)) t) →
    ∃ v, exec (.getMixer k tl b) u = .next v ∧ v.status.err = 0 ∧
      v.res1 ++ v.res0 =
        (if 4 * (freqArg s.argL).toInt = (halfRate c k n b : Int) ∧ quirk c k n b = false then -freqArg s.argL else freqArg s.argL) ∧
      v.res2 = BitVec.ofInt 32 (phaseRead (phaseWord s.argL.arg1)) ∧
      v.res3 = settingsWord { x with sel := if x.type = .off then .off else x.sel }

/-- R213's worked example, Scenario A: the fields SET_MIXER leaves at physical block 0 of a standard ADC tile with no compensation. -/
def Obligations.ScenarioACoarseFsHalf : Prop :=
  ∀ (s : State) (c : Converter), Memory.wf s.conv = true → DefaultMixerTable s.par → s.inst = some c →
    s.inp.tileOn .adc 0 = true → s.inp.blockOn .adc 0 0 = true → s.inp.pathOn .adc 0 0 = true → s.inp.hs .adc 0 = false →
    (3 ≤ c.gen ∨ (c.anaAt .adc 0 0).cal = .mode2) → (c.tileAt .adc 0).fs = 4000000000 → (c.tileAt .adc 0).mb = .single →
    s.argL = { arg0L := 0, arg0H := 0, arg1 := 0, arg2 := 0x00000045 } →
    settingsOf 0x00000045 = some { type := .coarse, mode := .c2c, sel := .fs2, evt := .immediate, scale := .auto } ∧
    ∃ t, exec (.setMixer .adc 0 0) s = .next t ∧ t.status.err = 0 ∧
      freqWordAt .adc 0 0 t = 0 ∧ phaseWordAt .adc 0 0 t = 0 ∧ fieldValue (.blk .ncoPhaseUpp .adc 0 0) t = 0 ∧
      fieldValue (.blk .mixCoarse .adc 0 0) t = 2 ∧ fieldValue (.blk .mixFine .adc 0 0) t = 0x65 ∧
      fieldValue (.blk .mixEvt .adc 0 0) t = 0 ∧ fieldValue (.blk .rateDtype .adc 0 0) t = 1 ∧
      PortEvent.write (.blk .mixUpdate .adc 0 0) 1 ∈ t.port.drop s.port.length

/-- SET_NYQUIST (R214): the requested zone is stored, the zone the hardware is to hold, flipped or not, is written over the span, and
nothing else changes. -/
def Obligations.SetNyquistWritesZone : Prop :=
  ∀ (k : Kind) (tl : BitVec 3) (n b : Fin 4) (code : BitVec 2) (z : Zone) (s : State) (c : Converter),
    Memory.wf s.conv = true → s.inst = some c → tl.toNat = n.val →
    s.inp.tileOn k n = true → s.inp.blockOn k n b = true → s.inp.pathOn k n b = true →
    (code = 1 ∧ z = .odd ∨ code = 2 ∧ z = .even) →
    ∃ t d, exec (.setNyquist k tl b code) s = .next t ∧ PostedOk s t ∧ EngineFrame s t ∧ ResultsKept s t ∧ t.log = s.log ∧
      t.inst = some d ∧ d = c.setAna k n b { c.anaAt k n b with zone := z } ∧ (d.anaAt k n b).zone = z ∧
      (∀ p ∈ span s.inp c k n b,
        fieldValue (.blk .nyqZone k n p) t =
          if (z = .even) ↔ (k = .adc ∧ c.gen ∈ s.par.zoneFlipGens ∧ (c.anaAt k n b).cal = .mode1) then 0 else 1) ∧
      FieldsKept (fun a => ∃ p ∈ span s.inp c k n b, a = .blk .nyqZone k n p) s t ∧
      t.port = s.port ++ (span s.inp c k n b).map fun p => .write (.blk .nyqZone k n p) (fieldValue (.blk .nyqZone k n p) t)

/-- GET_NYQUIST (R216): the hardware field's zone, flipped back: 1 for ODD, 2 for EVEN. -/
def Obligations.GetNyquistPosts : Prop :=
  ∀ (k : Kind) (tl : BitVec 3) (n b : Fin 4) (s : State) (c : Converter), s.inst = some c → tl.toNat = n.val →
    s.inp.tileOn k n = true → s.inp.blockOn k n b = true → s.inp.pathOn k n b = true →
    ∃ t, exec (.getNyquist k tl b) s = .next t ∧ PostedOk s t ∧ EngineFrame s t ∧ t.inst = s.inst ∧ t.conv = s.conv ∧ t.log = s.log ∧
      t.res0 =
        (if fieldValue (.blk .nyqZone k n (phys s.inp c k n b)) s = 1 ↔
            (k = .adc ∧ c.gen ∈ s.par.zoneFlipGens ∧ (c.anaAt k n b).cal = .mode1) then 1 else 2) ∧
      t.port = s.port ++ [.read (.blk .nyqZone k n (phys s.inp c k n b)) (fieldValue (.blk .nyqZone k n (phys s.inp c k n b)) s)] ∧
      t.res1 = s.res1 ∧ t.res2 = s.res2 ∧ t.res3 = s.res3

/-- R217's worked example, Scenario C: on a high-speed ADC tile 2 of generation 2 in calibration mode 1, `odd` is stored, EVEN is written at
physical blocks 0 and 1, and GET_NYQUIST posts ODD. -/
def Obligations.ScenarioCZoneFlip : Prop :=
  ∀ (s : State) (c : Converter), Memory.wf s.conv = true → s.par.zoneFlipGens = [1, 2] → s.inst = some c → c.gen = 2 →
    s.inp.hs .adc 2 = true → (c.anaAt .adc 2 0).cal = .mode1 →
    s.inp.tileOn .adc 2 = true → s.inp.blockOn .adc 2 0 = true → s.inp.pathOn .adc 2 0 = true →
    ∃ t d u, exec (.setNyquist .adc 2 0 1) s = .next t ∧ t.status.err = 0 ∧ t.inst = some d ∧ (d.anaAt .adc 2 0).zone = .odd ∧
      fieldValue (.blk .nyqZone .adc 2 0) t = 1 ∧ fieldValue (.blk .nyqZone .adc 2 1) t = 1 ∧
      exec (.getNyquist .adc 2 0) t = .next u ∧ u.status.err = 0 ∧ u.res0 = 1

/-! ## The power sequencer (41_power_sequencer.md) -/

/-- RESTART's decode errors: before INIT, and for a selector in 4..6 (R94, R124). -/
def Obligations.RestartDecodeErrors : Prop :=
  ∀ (k : Kind) (tl : BitVec 3) (x y : BitVec 4) (s : State),
    (s.inst = none → exec (.restart k tl x y) s = .next (raise .notInitialized none s)) ∧
    (s.inst ≠ none → tl = 4 ∨ tl = 5 ∨ tl = 6 → exec (.restart k tl x y) s = .next (raise .invalidArgument none s))

/-- The walk selects and checks (R112, R120): `R_SELECT` goes to the tile's check, or past the last tile to `END`, whose posting is the
step after (the model's reading, DEDUCED, log entry 10); an enabled tile goes on to be written; a disabled one ends the command if addressed, and is skipped with a debug event in an "all" walk. -/
def Obligations.WalkSelectsAndChecks : Prop :=
  ∀ (k : Kind) (tl : BitVec 3) (x y : BitVec 4) (s : State) (c : Converter), s.inst = some c → tl.toNat < 4 ∨ tl = 7 → s.timer = false →
    (s.seq = .rSelect → s.lastIdx < s.idx → exec (.restart k tl x y) s = .next { s with seq := .posting }) ∧
    (s.seq = .rSelect → s.idx ≤ s.lastIdx → exec (.restart k tl x y) s = .next { s with seq := .rCheck }) ∧
    ∀ n : Fin 4, s.seq = .rCheck → s.idx = n.val →
      (s.inp.tileOn k n = true → exec (.restart k tl x y) s = .next { s with seq := .rWrite }) ∧
      (s.inp.tileOn k n = false → tl.toNat < 4 →
        ∃ t, exec (.restart k tl x y) s = .next t ∧ t.status.err = 3 ∧ t.status.failTile.toNat = n.val ∧
          t.status.failTileValid = true ∧ t.status.timeoutKind = false ∧ t.seq = .idle ∧ t.status.done = true ∧
          t.status.busy = false ∧ t.inst = s.inst ∧ t.conv = s.conv ∧ t.port = s.port) ∧
      (s.inp.tileOn k n = false → tl = 7 →
        ∃ e, exec (.restart k tl x y) s = .next { s with idx := s.idx + 1, seq := .rSelect, log := s.log ++ [e] } ∧
          e.level = .debug ∧ e.name = .tileSkipped ∧ e.k = k ∧ e.t.toNat = n.val)

/-- `R_WRITE` (R114, and R112, R117): the requested start state, never changed, and the end state, downgraded from 1 to 3 on a
high-speed ADC tile of generation 3 or later, in one access of the restart-state register; nothing else changes. The end state is
computed from the requested one at every tile. -/
def Obligations.WalkWritesRestartState : Prop :=
  ∀ (k : Kind) (tl : BitVec 3) (x y e : BitVec 4) (n : Fin 4) (s : State) (c : Converter), Memory.wf s.conv = true →
    s.inst = some c → tl.toNat < 4 ∨ tl = 7 → s.timer = false → s.seq = .rWrite → s.idx = n.val →
    (k = .adc ∧ s.inp.hs .adc n = true ∧ 3 ≤ c.gen ∧ y = 1 → e = 3) →
    (¬(k = .adc ∧ s.inp.hs .adc n = true ∧ 3 ≤ c.gen ∧ y = 1) → e = y) →
    ∃ m, exec (.restart k tl x y) s =
        .next { s with endEff := e, seq := .rTrigger, conv := m, port := s.port ++ [.writeRestartState k n (x.setWidth 32) (e.setWidth 32)] } ∧
      fieldValue (.tile .restartStart k n) { s with conv := m } = x.setWidth 32 ∧
      fieldValue (.tile .restartEnd k n) { s with conv := m } = e.setWidth 32 ∧
      FieldsKept (fun a => a = .tile .restartStart k n ∨ a = .tile .restartEnd k n) s { s with conv := m }

/-- `R_TRIGGER` (R112, R118): 1 is written to `RESTART.GO`, the retry count starts at 0, and the lock poll follows exactly when the tile has
an internal PLL and the end state in use is 15. -/
def Obligations.WalkTriggers : Prop :=
  ∀ (k : Kind) (tl : BitVec 3) (x y : BitVec 4) (n : Fin 4) (s : State) (c : Converter), s.inst = some c →
    tl.toNat < 4 ∨ tl = 7 → s.timer = false → s.seq = .rTrigger → s.idx = n.val →
    ((c.tileAt k n).clkSrc = .internalPll ∧ s.endEff = 15 → exec (.restart k tl x y) s =
      .next { s with retry := 0, seq := .rLock, port := s.port ++ [.write (.tile .restartGo k n) 1] }) ∧
    ((c.tileAt k n).clkSrc = .external ∨ s.endEff ≠ 15 → exec (.restart k tl x y) s =
      .next { s with retry := 0, seq := .rClear, port := s.port ++ [.write (.tile .restartGo k n) 1] })

/-- One sample of the lock poll (R112, R115), for either answer of the tile: a 1 ends the poll; a 0 is retried after a wait, or ends the
command with `Timeout` (LOCK) at this tile when the budget is used. -/
def Obligations.LockPollSample : Prop :=
  ∀ (k : Kind) (tl : BitVec 3) (x y : BitVec 4) (n : Fin 4) (s : State) (c : Converter) (q : State), s.inst = some c →
    tl.toNat < 4 ∨ tl = 7 → s.timer = false → s.seq = .rLock → s.idx = n.val →
    q = { s with
      tileIn := s.tileIn.tail
      draws := if s.tileIn = [] then s.draws + 1 else s.draws
      port := s.port ++ [.read (.tile .pllLocked k n) (if nextAnswer s then 1 else 0)] } →
    exec (.restart k tl x y) s =
      if nextAnswer s then .next { q with retry := 0, seq := .rClear }
      else if s.retry = s.par.lockMaxRetries then .next (raise .timeout (some { tile := n, poll := some .lock }) q)
      else .next { q with retry := s.retry + 1, timer := true, port := q.port ++ [.wait] }

/-- One sample of the clear poll (R112, R116, R119), for either answer of the tile: a 0 ends the poll, records the end state in use as the
tile's power state and moves to the next tile; a 1 is retried after a wait, or ends the command with `Timeout` (CLEAR). -/
def Obligations.ClearPollSample : Prop :=
  ∀ (k : Kind) (tl : BitVec 3) (x y : BitVec 4) (n : Fin 4) (s : State) (c : Converter) (q : State), s.inst = some c →
    tl.toNat < 4 ∨ tl = 7 → s.timer = false → s.seq = .rClear → s.idx = n.val →
    q = { s with
      tileIn := s.tileIn.tail
      draws := if s.tileIn = [] then s.draws + 1 else s.draws
      port := s.port ++ [.read (.tile .restartGo k n) (if nextAnswer s then 1 else 0)] } →
    exec (.restart k tl x y) s =
      if nextAnswer s = false then
        .next { q with
          inst := some (c.setTile k n { c.tileAt k n with pwr := s.endEff.toNat })
          idx := s.idx + 1
          seq := .rSelect }
      else if s.retry = s.par.clrMaxRetries then .next (raise .timeout (some { tile := n, poll := some .clear }) q)
      else .next { q with retry := s.retry + 1, timer := true, port := q.port ++ [.wait] }

/-- A wait ends (R113), changing nothing but the poll timer; and `END` posts the success of the walk (R23, R123), in a step of its own
(the model's reading, log entry 10). -/
def Obligations.WalkWaitsAndPosts : Prop :=
  ∀ (k : Kind) (tl : BitVec 3) (x y : BitVec 4) (s : State) (c : Converter), s.inst = some c → tl.toNat < 4 ∨ tl = 7 →
    (s.timer = true → exec (.restart k tl x y) s = .next { s with timer := false }) ∧
    (s.timer = false → s.seq = .posting →
      ∃ t, exec (.restart k tl x y) s = .next t ∧ PostedOk s t ∧ EngineFrame s t ∧ ResultsKept s t ∧ t.inst = s.inst ∧
        t.conv = s.conv ∧ t.port = s.port ∧ t.log = s.log)

/-- RESTART's frame (R119, R130): no step of it changes a host register but `STATUS`, a latch, a per-block converter field, a field of
another tile, or anything of the converter record but the recorded power state of the tile being visited. -/
def Obligations.RestartFrame : Prop :=
  ∀ (k : Kind) (tl : BitVec 3) (x y : BitVec 4) (s t : State), Memory.wf s.conv = true → exec (.restart k tl x y) s = .next t →
    t.cmd = s.cmd ∧ t.arg0L = s.arg0L ∧ t.arg0H = s.arg0H ∧ t.arg1 = s.arg1 ∧ t.arg2 = s.arg2 ∧ ResultsKept s t ∧
    t.cmdL = s.cmdL ∧ t.argL = s.argL ∧ t.hostIn = s.hostIn ∧ t.hostOut = s.hostOut ∧ t.inp = s.inp ∧ t.par = s.par ∧
    t.status.overrun = s.status.overrun ∧
    FieldsKept (fun a => ∃ n : Fin 4, s.idx = n.val ∧ (a = .tile .restartStart k n ∨ a = .tile .restartEnd k n)) s t ∧
    (s.inst = none → t.inst = none) ∧
    ∀ c, s.inst = some c →
      ∃ d, t.inst = some d ∧ d.gen = c.gen ∧ (∀ k' n' b', d.blkAt k' n' b' = c.blkAt k' n' b') ∧
        (∀ k' n' b', d.anaAt k' n' b' = c.anaAt k' n' b') ∧
        (∀ k' n', d.tileAt k' n' = { c.tileAt k' n' with pwr := (d.tileAt k' n').pwr }) ∧
        ∀ k' n', ¬(k' = k ∧ s.idx = n'.val ∧ s.seq = .rClear) → d.tileAt k' n' = c.tileAt k' n'

/-- R126's worked example: `STARTUP adc, t0` with an internal PLL, `PLL.LOCKED` reading 0, 0, 1 and `RESTART.GO` reading 1, 0, and any budget of
at least 2: the port accesses and waits in order, success, and power state 15. The count of 14 steps rests on log entries 10 and
11 (`END` and each wait are steps of their own). -/
def Obligations.StartupWorkedExample : Prop :=
  ∀ (s : State) (c : Converter) (later : List Bool), s.hostIn = [] → s.seq = .rSelect → s.timer = false → s.idx = 0 → s.lastIdx = 0 →
    s.cmdL = 0x1000010F → s.inst = some c → s.inp.tileOn .adc 0 = true → (c.tileAt .adc 0).clkSrc = .internalPll →
    2 ≤ s.par.lockMaxRetries → 2 ≤ s.par.clrMaxRetries → s.tileIn = [false, false, true, true, false] ++ later →
    ∃ t d, Host.Core.run Sys2Proof.core 14 s = .next t ∧ PostedOk s t ∧ t.inst = some d ∧ (d.tileAt .adc 0).pwr = 15 ∧
      t.port = s.port ++
        [.writeRestartState .adc 0 1 15, .write (.tile .restartGo .adc 0) 1,
          .read (.tile .pllLocked .adc 0) 0, .wait, .read (.tile .pllLocked .adc 0) 0, .wait, .read (.tile .pllLocked .adc 0) 1,
          .read (.tile .restartGo .adc 0) 1, .wait, .read (.tile .restartGo .adc 0) 0]

/-- A RESTART, and every other command, ends (R128, R305): whatever the tiles answer, a command that runs undisturbed reaches `IDLE` within a
bounded number of steps, with at most 4 * (LOCK_MAX_RETRIES + CLR_MAX_RETRIES + 2) samples and 4 * (LOCK_MAX_RETRIES + CLR_MAX_RETRIES)
waits. The bound on steps rests on
log entries 10, 11 and 12 (`END` and each wait are steps of their own, and another command is one step). -/
def Obligations.CommandsEndWithinBound : Prop :=
  ∀ s : State, s.Inv → s.hostIn = [] → s.seq ≠ .idle →
    ∃ (m : Nat) (t : State), m ≤ 4 * (2 * (s.par.lockMaxRetries + s.par.clrMaxRetries) + 6) + 3 ∧
      Host.Core.run Sys2Proof.core m s = .next t ∧ t.seq = .idle ∧ t.status.done = true ∧
      samples t.port ≤ samples s.port + 4 * (s.par.lockMaxRetries + s.par.clrMaxRetries + 2) ∧
      waits t.port ≤ waits s.port + 4 * (s.par.lockMaxRetries + s.par.clrMaxRetries)
end

