-- ==== Sys2Proof/Laws/Memory.lean ====
section
/-! SUPPORT. The stored converter fields: read after write, writes elsewhere, the canonical form, and that different fields
have different keys. -/

namespace Sys2Proof.Machine

theorem risingAbove_mono {lo lo' : Nat} {m : Memory} (h : lo ≤ lo') (hm : Memory.risingAbove lo' m = true) :
    Memory.risingAbove lo m = true := by
  cases m with
  | nil => rfl
  | cons c rest =>
    simp only [Memory.risingAbove, Bool.and_eq_true, decide_eq_true_eq] at hm ⊢
    exact ⟨by omega, hm.2⟩

theorem lookup_eq_none_of_rising {m : Memory} {lo key : Nat} (h : Memory.risingAbove lo m = true) (hk : key ≤ lo) :
    Memory.lookup m key = none := by
  cases m with
  | nil => rfl
  | cons c rest =>
    simp only [Memory.risingAbove, Bool.and_eq_true, decide_eq_true_eq] at h
    simp only [Memory.lookup]
    rw [if_neg (by omega), if_pos (by omega)]

/-- Storing keeps the keys rising above any bound they and the new key are above. -/
theorem store_risingAbove {m : Memory} {lo key : Nat} (v : Word) (h : Memory.risingAbove lo m = true) (hk : lo < key) :
    Memory.risingAbove lo (Memory.store m key v) = true := by
  induction m generalizing lo with
  | nil => simp [Memory.store, Memory.risingAbove, hk]
  | cons c rest ih =>
    obtain ⟨a, u⟩ := c
    simp only [Memory.risingAbove, Bool.and_eq_true, decide_eq_true_eq] at h
    simp only [Memory.store]
    split
    · simpa [Memory.risingAbove] using h
    · split
      · simp only [Memory.risingAbove, Bool.and_eq_true, decide_eq_true_eq]
        exact ⟨hk, by omega, h.2⟩
      · simp only [Memory.risingAbove, Bool.and_eq_true, decide_eq_true_eq]
        exact ⟨h.1, ih h.2 (by omega)⟩

/-- A write keeps the canonical form. -/
theorem store_wf {m : Memory} (key : Nat) (v : Word) (h : Memory.wf m = true) : Memory.wf (Memory.store m key v) = true := by
  cases m with
  | nil => rfl
  | cons c rest =>
    obtain ⟨a, u⟩ := c
    simp only [Memory.wf] at h
    simp only [Memory.store]
    split
    · exact h
    · split
      · simp only [Memory.wf, Memory.risingAbove, Bool.and_eq_true, decide_eq_true_eq]
        exact ⟨by omega, h⟩
      · exact store_risingAbove v h (by omega)

/-- A read after a write of the same key gives the value written. -/
theorem lookup_store_same (m : Memory) (key : Nat) (v : Word) : Memory.lookup (Memory.store m key v) key = some v := by
  induction m with
  | nil => simp [Memory.store, Memory.lookup]
  | cons c rest ih =>
    obtain ⟨a, u⟩ := c
    simp only [Memory.store]
    split
    · next h => subst h; simp [Memory.lookup]
    · split
      · simp [Memory.lookup]
      · simp only [Memory.lookup]
        rw [if_neg (by omega), if_neg (by omega), ih]

theorem lookup_store_other_rising {m : Memory} {lo key key' : Nat} (v : Word) (h : Memory.risingAbove lo m = true) (hne : key' ≠ key) :
    Memory.lookup (Memory.store m key v) key' = Memory.lookup m key' := by
  induction m generalizing lo with
  | nil => simp [Memory.store, Memory.lookup, hne]
  | cons c rest ih =>
    obtain ⟨a, u⟩ := c
    simp only [Memory.risingAbove, Bool.and_eq_true, decide_eq_true_eq] at h
    simp only [Memory.store]
    split
    · next hka =>
      subst hka
      simp [Memory.lookup, hne]
    · split
      · next hlt =>
        simp only [Memory.lookup]
        rw [if_neg hne]
        by_cases h1 : key' < key
        · rw [if_pos h1, if_neg (by omega), if_pos (by omega)]
        · rw [if_neg h1]
      · simp only [Memory.lookup]
        rw [ih h.2]

/-- A write leaves every other key alone. -/
theorem lookup_store_other {m : Memory} {key key' : Nat} (v : Word) (h : Memory.wf m = true) (hne : key' ≠ key) :
    Memory.lookup (Memory.store m key v) key' = Memory.lookup m key' := by
  cases m with
  | nil => simp [Memory.store, Memory.lookup, hne]
  | cons c rest =>
    obtain ⟨a, u⟩ := c
    simp only [Memory.wf] at h
    simp only [Memory.store]
    split
    · next hka =>
      subst hka
      simp [Memory.lookup, hne]
    · split
      · next hlt =>
        simp only [Memory.lookup]
        rw [if_neg hne]
        by_cases h1 : key' < key
        · rw [if_pos h1, if_neg (by omega), if_pos (by omega)]
        · rw [if_neg h1]
      · simp only [Memory.lookup]
        rw [lookup_store_other_rising v h hne]

theorem kind_index_inj {k k' : Kind} (h : Kind.index k = Kind.index k') : k = k' := by
  cases k <;> cases k' <;> first | rfl | simp [Kind.index] at h

theorem kind_index_lt (k : Kind) : Kind.index k < 2 := by cases k <;> decide

theorem tileField_index_inj {f f' : TileField} (h : f.index = f'.index) : f = f' := by
  cases f <;> cases f' <;> first | rfl | simp [TileField.index] at h

theorem tileField_index_lt (f : TileField) : f.index < 4 := by cases f <;> decide

theorem blockField_index_ge (f : BlockField) : 4 ≤ f.index := by
  cases f <;> (try (rename_i ch; cases ch)) <;> decide

/-- The per-block fields in the order of their numbers, from 4. -/
def blockFields : List BlockField :=
  [.rateFactor .live, .rateFactor .obs, .rateDtype, .fabricRate .live, .fabricRate .obs, .cgDelay, .cgSyncEn, .ncoFreqLow,
    .ncoFreqMid, .ncoFreqUpp, .ncoPhaseLow, .ncoPhaseMid, .ncoPhaseUpp, .mixCoarse, .mixFine, .mixScale, .mixEvt, .mixUpdate,
    .nyqZone]

theorem blockFields_at_index (f : BlockField) : blockFields[f.index - 4]? = some f := by
  cases f <;> (try (rename_i ch; cases ch)) <;> rfl

theorem blockField_index_inj {f f' : BlockField} (h : f.index = f'.index) : f = f' :=
  Option.some.inj (by rw [← blockFields_at_index f, h, blockFields_at_index])

/-- Different copies of fields have different keys. -/
theorem key_inj {a a' : FieldAddr} (h : a.key = a'.key) : a = a' := by
  cases a with
  | tile f k t =>
    cases a' with
    | tile f' k' t' =>
      simp only [FieldAddr.key] at h
      have := kind_index_lt k; have := kind_index_lt k'; have := t.isLt; have := t'.isLt
      have hf : f.index = f'.index := by omega
      have hk : Kind.index k = Kind.index k' := by omega
      have ht : t.val = t'.val := by omega
      rw [tileField_index_inj hf, kind_index_inj hk, Fin.ext ht]
    | blk f' k' t' p' =>
      simp only [FieldAddr.key] at h
      have := kind_index_lt k; have := kind_index_lt k'; have := t.isLt; have := t'.isLt; have := p'.isLt
      have := tileField_index_lt f; have := blockField_index_ge f'
      omega
  | blk f k t p =>
    cases a' with
    | tile f' k' t' =>
      simp only [FieldAddr.key] at h
      have := kind_index_lt k; have := kind_index_lt k'; have := t.isLt; have := t'.isLt; have := p.isLt
      have := tileField_index_lt f'; have := blockField_index_ge f
      omega
    | blk f' k' t' p' =>
      simp only [FieldAddr.key] at h
      have := kind_index_lt k; have := kind_index_lt k'; have := t.isLt; have := t'.isLt; have := p.isLt; have := p'.isLt
      have hf : f.index = f'.index := by omega
      have hk : Kind.index k = Kind.index k' := by omega
      have ht : t.val = t'.val := by omega
      have hp : p.val = p'.val := by omega
      rw [blockField_index_inj hf, kind_index_inj hk, Fin.ext ht, Fin.ext hp]

/-- A `PortWrite` keeps the canonical form. -/
theorem writtenConv_wf {par : Params} {m : Memory} (a : FieldAddr) (v : Word) (h : Memory.wf m = true) :
    Memory.wf (writtenConv par m a v) = true := by
  simp only [writtenConv]
  split
  · exact h
  · exact store_wf _ _ h

/-- `PortWrite`s keep the canonical form. -/
theorem writtenAll_wf {par : Params} (ws : List (FieldAddr × Word)) {m : Memory} (h : Memory.wf m = true) :
    Memory.wf (writtenAll par m ws) = true := by
  induction ws generalizing m with
  | nil => exact h
  | cons w rest ih => exact ih (writtenConv_wf w.1 w.2 h)

/-- A `PortWrite` of a held field is read back cut to its width. -/
theorem lookup_writtenConv_same {par : Params} (m : Memory) {a : FieldAddr} (v : Word) (ha : a.notHeld = false) :
    Memory.lookup (writtenConv par m a v) a.key = some (lowBits (a.width par) v) := by
  simp [writtenConv, ha, lookup_store_same]

/-- A `PortWrite` leaves every other field alone. -/
theorem lookup_writtenConv_other {par : Params} {m : Memory} {a a' : FieldAddr} (v : Word) (h : Memory.wf m = true) (hne : a' ≠ a) :
    Memory.lookup (writtenConv par m a v) a'.key = Memory.lookup m a'.key := by
  simp only [writtenConv]
  split
  · rfl
  · exact lookup_store_other _ h fun hk => hne (key_inj hk)

/-- `PortWrite`s leave alone every field that is not among them. -/
theorem lookup_writtenAll_other {par : Params} (ws : List (FieldAddr × Word)) {m : Memory} {a : FieldAddr} (h : Memory.wf m = true)
    (hne : ∀ w ∈ ws, a ≠ w.1) : Memory.lookup (writtenAll par m ws) a.key = Memory.lookup m a.key := by
  induction ws generalizing m with
  | nil => rfl
  | cons w rest ih =>
    simp only [writtenAll]
    rw [ih (writtenConv_wf w.1 w.2 h) fun x hx => hne x (List.mem_cons_of_mem _ hx),
      lookup_writtenConv_other w.2 h (hne w List.mem_cons_self)]

theorem lookup_none_of_wf_nil (key : Nat) : Memory.lookup [] key = none := rfl

end Sys2Proof.Machine
end

