-- ==== Sys2Proof/Laws/State.lean ====
section
/-! SUPPORT. What each shared update of the state does to each field, one lemma per field, true by `rfl`. -/

namespace Sys2Proof.Machine

/-! ## `record` -/

@[simp] theorem record_cmd (e : PortEvent) (s : State) : (record e s).cmd = s.cmd := rfl
@[simp] theorem record_status (e : PortEvent) (s : State) : (record e s).status = s.status := rfl
@[simp] theorem record_arg0L (e : PortEvent) (s : State) : (record e s).arg0L = s.arg0L := rfl
@[simp] theorem record_arg0H (e : PortEvent) (s : State) : (record e s).arg0H = s.arg0H := rfl
@[simp] theorem record_arg1 (e : PortEvent) (s : State) : (record e s).arg1 = s.arg1 := rfl
@[simp] theorem record_arg2 (e : PortEvent) (s : State) : (record e s).arg2 = s.arg2 := rfl
@[simp] theorem record_res0 (e : PortEvent) (s : State) : (record e s).res0 = s.res0 := rfl
@[simp] theorem record_res1 (e : PortEvent) (s : State) : (record e s).res1 = s.res1 := rfl
@[simp] theorem record_res2 (e : PortEvent) (s : State) : (record e s).res2 = s.res2 := rfl
@[simp] theorem record_res3 (e : PortEvent) (s : State) : (record e s).res3 = s.res3 := rfl
@[simp] theorem record_seq (e : PortEvent) (s : State) : (record e s).seq = s.seq := rfl
@[simp] theorem record_cmdL (e : PortEvent) (s : State) : (record e s).cmdL = s.cmdL := rfl
@[simp] theorem record_argL (e : PortEvent) (s : State) : (record e s).argL = s.argL := rfl
@[simp] theorem record_idx (e : PortEvent) (s : State) : (record e s).idx = s.idx := rfl
@[simp] theorem record_lastIdx (e : PortEvent) (s : State) : (record e s).lastIdx = s.lastIdx := rfl
@[simp] theorem record_endEff (e : PortEvent) (s : State) : (record e s).endEff = s.endEff := rfl
@[simp] theorem record_retry (e : PortEvent) (s : State) : (record e s).retry = s.retry := rfl
@[simp] theorem record_timer (e : PortEvent) (s : State) : (record e s).timer = s.timer := rfl
@[simp] theorem record_inst (e : PortEvent) (s : State) : (record e s).inst = s.inst := rfl
@[simp] theorem record_conv (e : PortEvent) (s : State) : (record e s).conv = s.conv := rfl
@[simp] theorem record_hostIn (e : PortEvent) (s : State) : (record e s).hostIn = s.hostIn := rfl
@[simp] theorem record_hostOut (e : PortEvent) (s : State) : (record e s).hostOut = s.hostOut := rfl
@[simp] theorem record_tileIn (e : PortEvent) (s : State) : (record e s).tileIn = s.tileIn := rfl
@[simp] theorem record_draws (e : PortEvent) (s : State) : (record e s).draws = s.draws := rfl
@[simp] theorem record_port (e : PortEvent) (s : State) : (record e s).port = s.port ++ [e] := rfl
@[simp] theorem record_log (e : PortEvent) (s : State) : (record e s).log = s.log := rfl
@[simp] theorem record_inp (e : PortEvent) (s : State) : (record e s).inp = s.inp := rfl
@[simp] theorem record_par (e : PortEvent) (s : State) : (record e s).par = s.par := rfl

/-! ## `emit` -/

@[simp] theorem emit_cmd (e : LogEvent) (s : State) : (emit e s).cmd = s.cmd := rfl
@[simp] theorem emit_status (e : LogEvent) (s : State) : (emit e s).status = s.status := rfl
@[simp] theorem emit_arg0L (e : LogEvent) (s : State) : (emit e s).arg0L = s.arg0L := rfl
@[simp] theorem emit_arg0H (e : LogEvent) (s : State) : (emit e s).arg0H = s.arg0H := rfl
@[simp] theorem emit_arg1 (e : LogEvent) (s : State) : (emit e s).arg1 = s.arg1 := rfl
@[simp] theorem emit_arg2 (e : LogEvent) (s : State) : (emit e s).arg2 = s.arg2 := rfl
@[simp] theorem emit_res0 (e : LogEvent) (s : State) : (emit e s).res0 = s.res0 := rfl
@[simp] theorem emit_res1 (e : LogEvent) (s : State) : (emit e s).res1 = s.res1 := rfl
@[simp] theorem emit_res2 (e : LogEvent) (s : State) : (emit e s).res2 = s.res2 := rfl
@[simp] theorem emit_res3 (e : LogEvent) (s : State) : (emit e s).res3 = s.res3 := rfl
@[simp] theorem emit_seq (e : LogEvent) (s : State) : (emit e s).seq = s.seq := rfl
@[simp] theorem emit_cmdL (e : LogEvent) (s : State) : (emit e s).cmdL = s.cmdL := rfl
@[simp] theorem emit_argL (e : LogEvent) (s : State) : (emit e s).argL = s.argL := rfl
@[simp] theorem emit_idx (e : LogEvent) (s : State) : (emit e s).idx = s.idx := rfl
@[simp] theorem emit_lastIdx (e : LogEvent) (s : State) : (emit e s).lastIdx = s.lastIdx := rfl
@[simp] theorem emit_endEff (e : LogEvent) (s : State) : (emit e s).endEff = s.endEff := rfl
@[simp] theorem emit_retry (e : LogEvent) (s : State) : (emit e s).retry = s.retry := rfl
@[simp] theorem emit_timer (e : LogEvent) (s : State) : (emit e s).timer = s.timer := rfl
@[simp] theorem emit_inst (e : LogEvent) (s : State) : (emit e s).inst = s.inst := rfl
@[simp] theorem emit_conv (e : LogEvent) (s : State) : (emit e s).conv = s.conv := rfl
@[simp] theorem emit_hostIn (e : LogEvent) (s : State) : (emit e s).hostIn = s.hostIn := rfl
@[simp] theorem emit_hostOut (e : LogEvent) (s : State) : (emit e s).hostOut = s.hostOut := rfl
@[simp] theorem emit_tileIn (e : LogEvent) (s : State) : (emit e s).tileIn = s.tileIn := rfl
@[simp] theorem emit_draws (e : LogEvent) (s : State) : (emit e s).draws = s.draws := rfl
@[simp] theorem emit_port (e : LogEvent) (s : State) : (emit e s).port = s.port := rfl
@[simp] theorem emit_log (e : LogEvent) (s : State) : (emit e s).log = s.log ++ [e] := rfl
@[simp] theorem emit_inp (e : LogEvent) (s : State) : (emit e s).inp = s.inp := rfl
@[simp] theorem emit_par (e : LogEvent) (s : State) : (emit e s).par = s.par := rfl

/-! ## `portRead` -/

@[simp] theorem portRead_cmd (a : FieldAddr) (s : State) : (portRead a s).cmd = s.cmd := rfl
@[simp] theorem portRead_status (a : FieldAddr) (s : State) : (portRead a s).status = s.status := rfl
@[simp] theorem portRead_arg0L (a : FieldAddr) (s : State) : (portRead a s).arg0L = s.arg0L := rfl
@[simp] theorem portRead_arg0H (a : FieldAddr) (s : State) : (portRead a s).arg0H = s.arg0H := rfl
@[simp] theorem portRead_arg1 (a : FieldAddr) (s : State) : (portRead a s).arg1 = s.arg1 := rfl
@[simp] theorem portRead_arg2 (a : FieldAddr) (s : State) : (portRead a s).arg2 = s.arg2 := rfl
@[simp] theorem portRead_res0 (a : FieldAddr) (s : State) : (portRead a s).res0 = s.res0 := rfl
@[simp] theorem portRead_res1 (a : FieldAddr) (s : State) : (portRead a s).res1 = s.res1 := rfl
@[simp] theorem portRead_res2 (a : FieldAddr) (s : State) : (portRead a s).res2 = s.res2 := rfl
@[simp] theorem portRead_res3 (a : FieldAddr) (s : State) : (portRead a s).res3 = s.res3 := rfl
@[simp] theorem portRead_seq (a : FieldAddr) (s : State) : (portRead a s).seq = s.seq := rfl
@[simp] theorem portRead_cmdL (a : FieldAddr) (s : State) : (portRead a s).cmdL = s.cmdL := rfl
@[simp] theorem portRead_argL (a : FieldAddr) (s : State) : (portRead a s).argL = s.argL := rfl
@[simp] theorem portRead_idx (a : FieldAddr) (s : State) : (portRead a s).idx = s.idx := rfl
@[simp] theorem portRead_lastIdx (a : FieldAddr) (s : State) : (portRead a s).lastIdx = s.lastIdx := rfl
@[simp] theorem portRead_endEff (a : FieldAddr) (s : State) : (portRead a s).endEff = s.endEff := rfl
@[simp] theorem portRead_retry (a : FieldAddr) (s : State) : (portRead a s).retry = s.retry := rfl
@[simp] theorem portRead_timer (a : FieldAddr) (s : State) : (portRead a s).timer = s.timer := rfl
@[simp] theorem portRead_inst (a : FieldAddr) (s : State) : (portRead a s).inst = s.inst := rfl
@[simp] theorem portRead_conv (a : FieldAddr) (s : State) : (portRead a s).conv = s.conv := rfl
@[simp] theorem portRead_hostIn (a : FieldAddr) (s : State) : (portRead a s).hostIn = s.hostIn := rfl
@[simp] theorem portRead_hostOut (a : FieldAddr) (s : State) : (portRead a s).hostOut = s.hostOut := rfl
@[simp] theorem portRead_tileIn (a : FieldAddr) (s : State) : (portRead a s).tileIn = s.tileIn := rfl
@[simp] theorem portRead_draws (a : FieldAddr) (s : State) : (portRead a s).draws = s.draws := rfl
@[simp] theorem portRead_port (a : FieldAddr) (s : State) : (portRead a s).port = s.port ++ [.read a (fieldValue a s)] := rfl
@[simp] theorem portRead_log (a : FieldAddr) (s : State) : (portRead a s).log = s.log := rfl
@[simp] theorem portRead_inp (a : FieldAddr) (s : State) : (portRead a s).inp = s.inp := rfl
@[simp] theorem portRead_par (a : FieldAddr) (s : State) : (portRead a s).par = s.par := rfl

/-! ## `portWrite` -/

@[simp] theorem portWrite_cmd (a : FieldAddr) (v : Word) (s : State) : (portWrite a v s).cmd = s.cmd := rfl
@[simp] theorem portWrite_status (a : FieldAddr) (v : Word) (s : State) : (portWrite a v s).status = s.status := rfl
@[simp] theorem portWrite_arg0L (a : FieldAddr) (v : Word) (s : State) : (portWrite a v s).arg0L = s.arg0L := rfl
@[simp] theorem portWrite_arg0H (a : FieldAddr) (v : Word) (s : State) : (portWrite a v s).arg0H = s.arg0H := rfl
@[simp] theorem portWrite_arg1 (a : FieldAddr) (v : Word) (s : State) : (portWrite a v s).arg1 = s.arg1 := rfl
@[simp] theorem portWrite_arg2 (a : FieldAddr) (v : Word) (s : State) : (portWrite a v s).arg2 = s.arg2 := rfl
@[simp] theorem portWrite_res0 (a : FieldAddr) (v : Word) (s : State) : (portWrite a v s).res0 = s.res0 := rfl
@[simp] theorem portWrite_res1 (a : FieldAddr) (v : Word) (s : State) : (portWrite a v s).res1 = s.res1 := rfl
@[simp] theorem portWrite_res2 (a : FieldAddr) (v : Word) (s : State) : (portWrite a v s).res2 = s.res2 := rfl
@[simp] theorem portWrite_res3 (a : FieldAddr) (v : Word) (s : State) : (portWrite a v s).res3 = s.res3 := rfl
@[simp] theorem portWrite_seq (a : FieldAddr) (v : Word) (s : State) : (portWrite a v s).seq = s.seq := rfl
@[simp] theorem portWrite_cmdL (a : FieldAddr) (v : Word) (s : State) : (portWrite a v s).cmdL = s.cmdL := rfl
@[simp] theorem portWrite_argL (a : FieldAddr) (v : Word) (s : State) : (portWrite a v s).argL = s.argL := rfl
@[simp] theorem portWrite_idx (a : FieldAddr) (v : Word) (s : State) : (portWrite a v s).idx = s.idx := rfl
@[simp] theorem portWrite_lastIdx (a : FieldAddr) (v : Word) (s : State) : (portWrite a v s).lastIdx = s.lastIdx := rfl
@[simp] theorem portWrite_endEff (a : FieldAddr) (v : Word) (s : State) : (portWrite a v s).endEff = s.endEff := rfl
@[simp] theorem portWrite_retry (a : FieldAddr) (v : Word) (s : State) : (portWrite a v s).retry = s.retry := rfl
@[simp] theorem portWrite_timer (a : FieldAddr) (v : Word) (s : State) : (portWrite a v s).timer = s.timer := rfl
@[simp] theorem portWrite_inst (a : FieldAddr) (v : Word) (s : State) : (portWrite a v s).inst = s.inst := rfl
@[simp] theorem portWrite_conv (a : FieldAddr) (v : Word) (s : State) : (portWrite a v s).conv = writtenConv s.par s.conv a v := rfl
@[simp] theorem portWrite_hostIn (a : FieldAddr) (v : Word) (s : State) : (portWrite a v s).hostIn = s.hostIn := rfl
@[simp] theorem portWrite_hostOut (a : FieldAddr) (v : Word) (s : State) : (portWrite a v s).hostOut = s.hostOut := rfl
@[simp] theorem portWrite_tileIn (a : FieldAddr) (v : Word) (s : State) : (portWrite a v s).tileIn = s.tileIn := rfl
@[simp] theorem portWrite_draws (a : FieldAddr) (v : Word) (s : State) : (portWrite a v s).draws = s.draws := rfl
@[simp] theorem portWrite_port (a : FieldAddr) (v : Word) (s : State) : (portWrite a v s).port = s.port ++ [.write a v] := rfl
@[simp] theorem portWrite_log (a : FieldAddr) (v : Word) (s : State) : (portWrite a v s).log = s.log := rfl
@[simp] theorem portWrite_inp (a : FieldAddr) (v : Word) (s : State) : (portWrite a v s).inp = s.inp := rfl
@[simp] theorem portWrite_par (a : FieldAddr) (v : Word) (s : State) : (portWrite a v s).par = s.par := rfl

/-! ## `portWriteRestartState` -/

@[simp] theorem portWriteRestartState_cmd (k : Kind) (t : Fin 4) (x y : BitVec 4) (s : State) : (portWriteRestartState k t x y s).cmd = s.cmd := rfl
@[simp] theorem portWriteRestartState_status (k : Kind) (t : Fin 4) (x y : BitVec 4) (s : State) : (portWriteRestartState k t x y s).status = s.status := rfl
@[simp] theorem portWriteRestartState_arg0L (k : Kind) (t : Fin 4) (x y : BitVec 4) (s : State) : (portWriteRestartState k t x y s).arg0L = s.arg0L := rfl
@[simp] theorem portWriteRestartState_arg0H (k : Kind) (t : Fin 4) (x y : BitVec 4) (s : State) : (portWriteRestartState k t x y s).arg0H = s.arg0H := rfl
@[simp] theorem portWriteRestartState_arg1 (k : Kind) (t : Fin 4) (x y : BitVec 4) (s : State) : (portWriteRestartState k t x y s).arg1 = s.arg1 := rfl
@[simp] theorem portWriteRestartState_arg2 (k : Kind) (t : Fin 4) (x y : BitVec 4) (s : State) : (portWriteRestartState k t x y s).arg2 = s.arg2 := rfl
@[simp] theorem portWriteRestartState_res0 (k : Kind) (t : Fin 4) (x y : BitVec 4) (s : State) : (portWriteRestartState k t x y s).res0 = s.res0 := rfl
@[simp] theorem portWriteRestartState_res1 (k : Kind) (t : Fin 4) (x y : BitVec 4) (s : State) : (portWriteRestartState k t x y s).res1 = s.res1 := rfl
@[simp] theorem portWriteRestartState_res2 (k : Kind) (t : Fin 4) (x y : BitVec 4) (s : State) : (portWriteRestartState k t x y s).res2 = s.res2 := rfl
@[simp] theorem portWriteRestartState_res3 (k : Kind) (t : Fin 4) (x y : BitVec 4) (s : State) : (portWriteRestartState k t x y s).res3 = s.res3 := rfl
@[simp] theorem portWriteRestartState_seq (k : Kind) (t : Fin 4) (x y : BitVec 4) (s : State) : (portWriteRestartState k t x y s).seq = s.seq := rfl
@[simp] theorem portWriteRestartState_cmdL (k : Kind) (t : Fin 4) (x y : BitVec 4) (s : State) : (portWriteRestartState k t x y s).cmdL = s.cmdL := rfl
@[simp] theorem portWriteRestartState_argL (k : Kind) (t : Fin 4) (x y : BitVec 4) (s : State) : (portWriteRestartState k t x y s).argL = s.argL := rfl
@[simp] theorem portWriteRestartState_idx (k : Kind) (t : Fin 4) (x y : BitVec 4) (s : State) : (portWriteRestartState k t x y s).idx = s.idx := rfl
@[simp] theorem portWriteRestartState_lastIdx (k : Kind) (t : Fin 4) (x y : BitVec 4) (s : State) : (portWriteRestartState k t x y s).lastIdx = s.lastIdx := rfl
@[simp] theorem portWriteRestartState_endEff (k : Kind) (t : Fin 4) (x y : BitVec 4) (s : State) : (portWriteRestartState k t x y s).endEff = s.endEff := rfl
@[simp] theorem portWriteRestartState_retry (k : Kind) (t : Fin 4) (x y : BitVec 4) (s : State) : (portWriteRestartState k t x y s).retry = s.retry := rfl
@[simp] theorem portWriteRestartState_timer (k : Kind) (t : Fin 4) (x y : BitVec 4) (s : State) : (portWriteRestartState k t x y s).timer = s.timer := rfl
@[simp] theorem portWriteRestartState_inst (k : Kind) (t : Fin 4) (x y : BitVec 4) (s : State) : (portWriteRestartState k t x y s).inst = s.inst := rfl
@[simp] theorem portWriteRestartState_conv (k : Kind) (t : Fin 4) (x y : BitVec 4) (s : State) : (portWriteRestartState k t x y s).conv = 
      writtenConv s.par (writtenConv s.par s.conv (.tile .restartStart k t) (x.setWidth 32)) (.tile .restartEnd k t) (y.setWidth 32) := rfl
@[simp] theorem portWriteRestartState_hostIn (k : Kind) (t : Fin 4) (x y : BitVec 4) (s : State) : (portWriteRestartState k t x y s).hostIn = s.hostIn := rfl
@[simp] theorem portWriteRestartState_hostOut (k : Kind) (t : Fin 4) (x y : BitVec 4) (s : State) : (portWriteRestartState k t x y s).hostOut = s.hostOut := rfl
@[simp] theorem portWriteRestartState_tileIn (k : Kind) (t : Fin 4) (x y : BitVec 4) (s : State) : (portWriteRestartState k t x y s).tileIn = s.tileIn := rfl
@[simp] theorem portWriteRestartState_draws (k : Kind) (t : Fin 4) (x y : BitVec 4) (s : State) : (portWriteRestartState k t x y s).draws = s.draws := rfl
@[simp] theorem portWriteRestartState_port (k : Kind) (t : Fin 4) (x y : BitVec 4) (s : State) : (portWriteRestartState k t x y s).port = s.port ++ [.writeRestartState k t (x.setWidth 32) (y.setWidth 32)] := rfl
@[simp] theorem portWriteRestartState_log (k : Kind) (t : Fin 4) (x y : BitVec 4) (s : State) : (portWriteRestartState k t x y s).log = s.log := rfl
@[simp] theorem portWriteRestartState_inp (k : Kind) (t : Fin 4) (x y : BitVec 4) (s : State) : (portWriteRestartState k t x y s).inp = s.inp := rfl
@[simp] theorem portWriteRestartState_par (k : Kind) (t : Fin 4) (x y : BitVec 4) (s : State) : (portWriteRestartState k t x y s).par = s.par := rfl

/-! ## `postOk` -/

@[simp] theorem postOk_cmd (s : State) : (postOk s).cmd = s.cmd := rfl
@[simp] theorem postOk_status (s : State) : (postOk s).status = 
      { s.status with busy := false, done := true, err := 0, failTile := 0, failTileValid := false, timeoutKind := false } := rfl
@[simp] theorem postOk_arg0L (s : State) : (postOk s).arg0L = s.arg0L := rfl
@[simp] theorem postOk_arg0H (s : State) : (postOk s).arg0H = s.arg0H := rfl
@[simp] theorem postOk_arg1 (s : State) : (postOk s).arg1 = s.arg1 := rfl
@[simp] theorem postOk_arg2 (s : State) : (postOk s).arg2 = s.arg2 := rfl
@[simp] theorem postOk_res0 (s : State) : (postOk s).res0 = s.res0 := rfl
@[simp] theorem postOk_res1 (s : State) : (postOk s).res1 = s.res1 := rfl
@[simp] theorem postOk_res2 (s : State) : (postOk s).res2 = s.res2 := rfl
@[simp] theorem postOk_res3 (s : State) : (postOk s).res3 = s.res3 := rfl
@[simp] theorem postOk_seq (s : State) : (postOk s).seq = .idle := rfl
@[simp] theorem postOk_cmdL (s : State) : (postOk s).cmdL = s.cmdL := rfl
@[simp] theorem postOk_argL (s : State) : (postOk s).argL = s.argL := rfl
@[simp] theorem postOk_idx (s : State) : (postOk s).idx = s.idx := rfl
@[simp] theorem postOk_lastIdx (s : State) : (postOk s).lastIdx = s.lastIdx := rfl
@[simp] theorem postOk_endEff (s : State) : (postOk s).endEff = s.endEff := rfl
@[simp] theorem postOk_retry (s : State) : (postOk s).retry = s.retry := rfl
@[simp] theorem postOk_timer (s : State) : (postOk s).timer = false := rfl
@[simp] theorem postOk_inst (s : State) : (postOk s).inst = s.inst := rfl
@[simp] theorem postOk_conv (s : State) : (postOk s).conv = s.conv := rfl
@[simp] theorem postOk_hostIn (s : State) : (postOk s).hostIn = s.hostIn := rfl
@[simp] theorem postOk_hostOut (s : State) : (postOk s).hostOut = s.hostOut := rfl
@[simp] theorem postOk_tileIn (s : State) : (postOk s).tileIn = s.tileIn := rfl
@[simp] theorem postOk_draws (s : State) : (postOk s).draws = s.draws := rfl
@[simp] theorem postOk_port (s : State) : (postOk s).port = s.port := rfl
@[simp] theorem postOk_log (s : State) : (postOk s).log = s.log := rfl
@[simp] theorem postOk_inp (s : State) : (postOk s).inp = s.inp := rfl
@[simp] theorem postOk_par (s : State) : (postOk s).par = s.par := rfl

/-! ## `raise` -/

@[simp] theorem raise_cmd (e : Err) (x : Option FailInfo) (s : State) : (raise e x s).cmd = s.cmd := rfl
@[simp] theorem raise_arg0L (e : Err) (x : Option FailInfo) (s : State) : (raise e x s).arg0L = s.arg0L := rfl
@[simp] theorem raise_arg0H (e : Err) (x : Option FailInfo) (s : State) : (raise e x s).arg0H = s.arg0H := rfl
@[simp] theorem raise_arg1 (e : Err) (x : Option FailInfo) (s : State) : (raise e x s).arg1 = s.arg1 := rfl
@[simp] theorem raise_arg2 (e : Err) (x : Option FailInfo) (s : State) : (raise e x s).arg2 = s.arg2 := rfl
@[simp] theorem raise_res0 (e : Err) (x : Option FailInfo) (s : State) : (raise e x s).res0 = s.res0 := rfl
@[simp] theorem raise_res1 (e : Err) (x : Option FailInfo) (s : State) : (raise e x s).res1 = s.res1 := rfl
@[simp] theorem raise_res2 (e : Err) (x : Option FailInfo) (s : State) : (raise e x s).res2 = s.res2 := rfl
@[simp] theorem raise_res3 (e : Err) (x : Option FailInfo) (s : State) : (raise e x s).res3 = s.res3 := rfl
@[simp] theorem raise_seq (e : Err) (x : Option FailInfo) (s : State) : (raise e x s).seq = .idle := rfl
@[simp] theorem raise_cmdL (e : Err) (x : Option FailInfo) (s : State) : (raise e x s).cmdL = s.cmdL := rfl
@[simp] theorem raise_argL (e : Err) (x : Option FailInfo) (s : State) : (raise e x s).argL = s.argL := rfl
@[simp] theorem raise_idx (e : Err) (x : Option FailInfo) (s : State) : (raise e x s).idx = s.idx := rfl
@[simp] theorem raise_lastIdx (e : Err) (x : Option FailInfo) (s : State) : (raise e x s).lastIdx = s.lastIdx := rfl
@[simp] theorem raise_endEff (e : Err) (x : Option FailInfo) (s : State) : (raise e x s).endEff = s.endEff := rfl
@[simp] theorem raise_retry (e : Err) (x : Option FailInfo) (s : State) : (raise e x s).retry = s.retry := rfl
@[simp] theorem raise_timer (e : Err) (x : Option FailInfo) (s : State) : (raise e x s).timer = false := rfl
@[simp] theorem raise_inst (e : Err) (x : Option FailInfo) (s : State) : (raise e x s).inst = s.inst := rfl
@[simp] theorem raise_conv (e : Err) (x : Option FailInfo) (s : State) : (raise e x s).conv = s.conv := rfl
@[simp] theorem raise_hostIn (e : Err) (x : Option FailInfo) (s : State) : (raise e x s).hostIn = s.hostIn := rfl
@[simp] theorem raise_hostOut (e : Err) (x : Option FailInfo) (s : State) : (raise e x s).hostOut = s.hostOut := rfl
@[simp] theorem raise_tileIn (e : Err) (x : Option FailInfo) (s : State) : (raise e x s).tileIn = s.tileIn := rfl
@[simp] theorem raise_draws (e : Err) (x : Option FailInfo) (s : State) : (raise e x s).draws = s.draws := rfl
@[simp] theorem raise_port (e : Err) (x : Option FailInfo) (s : State) : (raise e x s).port = s.port := rfl
@[simp] theorem raise_log (e : Err) (x : Option FailInfo) (s : State) : (raise e x s).log = s.log ++ [errorEvent e x s.cmdL] := rfl
@[simp] theorem raise_inp (e : Err) (x : Option FailInfo) (s : State) : (raise e x s).inp = s.inp := rfl
@[simp] theorem raise_par (e : Err) (x : Option FailInfo) (s : State) : (raise e x s).par = s.par := rfl

/-! ## `latch` -/

@[simp] theorem latch_cmd (w : Word) (s : State) : (latch w s).cmd = w := rfl
@[simp] theorem latch_status (w : Word) (s : State) : (latch w s).status = 
      { busy := true, done := false, overrun := false, err := 0, failTile := 0, failTileValid := false, timeoutKind := false } := rfl
@[simp] theorem latch_arg0L (w : Word) (s : State) : (latch w s).arg0L = s.arg0L := rfl
@[simp] theorem latch_arg0H (w : Word) (s : State) : (latch w s).arg0H = s.arg0H := rfl
@[simp] theorem latch_arg1 (w : Word) (s : State) : (latch w s).arg1 = s.arg1 := rfl
@[simp] theorem latch_arg2 (w : Word) (s : State) : (latch w s).arg2 = s.arg2 := rfl
@[simp] theorem latch_res0 (w : Word) (s : State) : (latch w s).res0 = 0 := rfl
@[simp] theorem latch_res1 (w : Word) (s : State) : (latch w s).res1 = 0 := rfl
@[simp] theorem latch_res2 (w : Word) (s : State) : (latch w s).res2 = 0 := rfl
@[simp] theorem latch_res3 (w : Word) (s : State) : (latch w s).res3 = 0 := rfl
@[simp] theorem latch_seq (w : Word) (s : State) : (latch w s).seq = s.seq := rfl
@[simp] theorem latch_cmdL (w : Word) (s : State) : (latch w s).cmdL = w := rfl
@[simp] theorem latch_argL (w : Word) (s : State) : (latch w s).argL = { arg0L := s.arg0L, arg0H := s.arg0H, arg1 := s.arg1, arg2 := s.arg2 } := rfl
@[simp] theorem latch_idx (w : Word) (s : State) : (latch w s).idx = s.idx := rfl
@[simp] theorem latch_lastIdx (w : Word) (s : State) : (latch w s).lastIdx = s.lastIdx := rfl
@[simp] theorem latch_endEff (w : Word) (s : State) : (latch w s).endEff = s.endEff := rfl
@[simp] theorem latch_retry (w : Word) (s : State) : (latch w s).retry = s.retry := rfl
@[simp] theorem latch_timer (w : Word) (s : State) : (latch w s).timer = s.timer := rfl
@[simp] theorem latch_inst (w : Word) (s : State) : (latch w s).inst = s.inst := rfl
@[simp] theorem latch_conv (w : Word) (s : State) : (latch w s).conv = s.conv := rfl
@[simp] theorem latch_hostIn (w : Word) (s : State) : (latch w s).hostIn = s.hostIn := rfl
@[simp] theorem latch_hostOut (w : Word) (s : State) : (latch w s).hostOut = s.hostOut := rfl
@[simp] theorem latch_tileIn (w : Word) (s : State) : (latch w s).tileIn = s.tileIn := rfl
@[simp] theorem latch_draws (w : Word) (s : State) : (latch w s).draws = s.draws := rfl
@[simp] theorem latch_port (w : Word) (s : State) : (latch w s).port = s.port := rfl
@[simp] theorem latch_log (w : Word) (s : State) : (latch w s).log = s.log := rfl
@[simp] theorem latch_inp (w : Word) (s : State) : (latch w s).inp = s.inp := rfl
@[simp] theorem latch_par (w : Word) (s : State) : (latch w s).par = s.par := rfl

/-! ## `startWalk` -/

@[simp] theorem startWalk_cmd (t : BitVec 3) (s : State) : (startWalk t s).cmd = s.cmd := rfl
@[simp] theorem startWalk_status (t : BitVec 3) (s : State) : (startWalk t s).status = s.status := rfl
@[simp] theorem startWalk_arg0L (t : BitVec 3) (s : State) : (startWalk t s).arg0L = s.arg0L := rfl
@[simp] theorem startWalk_arg0H (t : BitVec 3) (s : State) : (startWalk t s).arg0H = s.arg0H := rfl
@[simp] theorem startWalk_arg1 (t : BitVec 3) (s : State) : (startWalk t s).arg1 = s.arg1 := rfl
@[simp] theorem startWalk_arg2 (t : BitVec 3) (s : State) : (startWalk t s).arg2 = s.arg2 := rfl
@[simp] theorem startWalk_res0 (t : BitVec 3) (s : State) : (startWalk t s).res0 = s.res0 := rfl
@[simp] theorem startWalk_res1 (t : BitVec 3) (s : State) : (startWalk t s).res1 = s.res1 := rfl
@[simp] theorem startWalk_res2 (t : BitVec 3) (s : State) : (startWalk t s).res2 = s.res2 := rfl
@[simp] theorem startWalk_res3 (t : BitVec 3) (s : State) : (startWalk t s).res3 = s.res3 := rfl
@[simp] theorem startWalk_seq (t : BitVec 3) (s : State) : (startWalk t s).seq = .rSelect := rfl
@[simp] theorem startWalk_cmdL (t : BitVec 3) (s : State) : (startWalk t s).cmdL = s.cmdL := rfl
@[simp] theorem startWalk_argL (t : BitVec 3) (s : State) : (startWalk t s).argL = s.argL := rfl
@[simp] theorem startWalk_idx (t : BitVec 3) (s : State) : (startWalk t s).idx = (walkRange t).1 := rfl
@[simp] theorem startWalk_lastIdx (t : BitVec 3) (s : State) : (startWalk t s).lastIdx = (walkRange t).2 := rfl
@[simp] theorem startWalk_endEff (t : BitVec 3) (s : State) : (startWalk t s).endEff = s.endEff := rfl
@[simp] theorem startWalk_retry (t : BitVec 3) (s : State) : (startWalk t s).retry = s.retry := rfl
@[simp] theorem startWalk_timer (t : BitVec 3) (s : State) : (startWalk t s).timer = s.timer := rfl
@[simp] theorem startWalk_inst (t : BitVec 3) (s : State) : (startWalk t s).inst = s.inst := rfl
@[simp] theorem startWalk_conv (t : BitVec 3) (s : State) : (startWalk t s).conv = s.conv := rfl
@[simp] theorem startWalk_hostIn (t : BitVec 3) (s : State) : (startWalk t s).hostIn = s.hostIn := rfl
@[simp] theorem startWalk_hostOut (t : BitVec 3) (s : State) : (startWalk t s).hostOut = s.hostOut := rfl
@[simp] theorem startWalk_tileIn (t : BitVec 3) (s : State) : (startWalk t s).tileIn = s.tileIn := rfl
@[simp] theorem startWalk_draws (t : BitVec 3) (s : State) : (startWalk t s).draws = s.draws := rfl
@[simp] theorem startWalk_port (t : BitVec 3) (s : State) : (startWalk t s).port = s.port := rfl
@[simp] theorem startWalk_log (t : BitVec 3) (s : State) : (startWalk t s).log = s.log := rfl
@[simp] theorem startWalk_inp (t : BitVec 3) (s : State) : (startWalk t s).inp = s.inp := rfl
@[simp] theorem startWalk_par (t : BitVec 3) (s : State) : (startWalk t s).par = s.par := rfl

@[simp] theorem raise_busy (e : Err) (x : Option FailInfo) (s : State) : (raise e x s).status.busy = false := rfl
@[simp] theorem raise_done (e : Err) (x : Option FailInfo) (s : State) : (raise e x s).status.done = true := rfl
@[simp] theorem raise_overrun (e : Err) (x : Option FailInfo) (s : State) : (raise e x s).status.overrun = s.status.overrun := rfl
@[simp] theorem raise_err (e : Err) (x : Option FailInfo) (s : State) : (raise e x s).status.err = e.code := rfl
@[simp] theorem raise_failTileValid (e : Err) (x : Option FailInfo) (s : State) :
    (raise e x s).status.failTileValid = x.isSome := rfl
@[simp] theorem raise_none_failTile (e : Err) (s : State) : (raise e none s).status.failTile = 0 := rfl
@[simp] theorem raise_none_timeoutKind (e : Err) (s : State) : (raise e none s).status.timeoutKind = false := rfl
@[simp] theorem raise_some_failTile (e : Err) (i : FailInfo) (s : State) :
    (raise e (some i) s).status.failTile = BitVec.ofFin (w := 3) (Fin.castLE (by decide) i.tile) := rfl

end Sys2Proof.Machine
end

