-- ==== Sys2Proof/Laws/Ops.lean ====
section
/-! SUPPORT. For each shared operation, what it does, said once: the tables, the port, the polls, the decode checks and the
outcome of a command. -/

namespace Sys2Proof

theorem Quad.get_set {α : Type} (q : Quad α) (i j : Fin 4) (a : α) : (q.set i a).get j = if j = i then a else q.get j := by
  match i, j with
  | 0, 0 | 0, 1 | 0, 2 | 0, 3 | 1, 0 | 1, 1 | 1, 2 | 1, 3 | 2, 0 | 2, 1 | 2, 2 | 2, 3 | 3, 0 | 3, 1 | 3, 2 | 3, 3 => rfl

@[simp] theorem Quad.get_ofFn {α : Type} (f : Fin 4 → α) (i : Fin 4) : (Quad.ofFn f).get i = f i := by
  match i with
  | 0 | 1 | 2 | 3 => rfl

theorem PerKind.get_set {α : Type} (p : PerKind α) (k l : Kind) (a : α) : (p.set k a).get l = if l = k then a else p.get l := by
  cases k <;> cases l <;> rfl

@[simp] theorem PerKind.get_ofFn {α : Type} (f : Kind → α) (k : Kind) : (PerKind.ofFn f).get k = f k := by
  cases k <;> rfl

namespace Machine

/-! ## The converter record -/

@[simp] theorem setTile_gen (c : Converter) (k : Kind) (t : Fin 4) (r : TileRec) : (c.setTile k t r).gen = c.gen := rfl

@[simp] theorem setTile_blkAt (c : Converter) (k : Kind) (t : Fin 4) (r : TileRec) (k' : Kind) (t' b' : Fin 4) :
    (c.setTile k t r).blkAt k' t' b' = c.blkAt k' t' b' := rfl

@[simp] theorem setTile_anaAt (c : Converter) (k : Kind) (t : Fin 4) (r : TileRec) (k' : Kind) (t' b' : Fin 4) :
    (c.setTile k t r).anaAt k' t' b' = c.anaAt k' t' b' := rfl

theorem setTile_tileAt (c : Converter) (k : Kind) (t : Fin 4) (r : TileRec) (k' : Kind) (t' : Fin 4) :
    (c.setTile k t r).tileAt k' t' = if k' = k ∧ t' = t then r else c.tileAt k' t' := by
  simp only [Converter.setTile, Converter.tileAt, PerKind.get_set]
  by_cases hk : k' = k
  · subst hk
    simp [Quad.get_set]
  · simp [hk]

@[simp] theorem setBlk_gen (c : Converter) (k : Kind) (t b : Fin 4) (r : BlkRec) : (c.setBlk k t b r).gen = c.gen := rfl

@[simp] theorem setBlk_tileAt (c : Converter) (k : Kind) (t b : Fin 4) (r : BlkRec) (k' : Kind) (t' : Fin 4) :
    (c.setBlk k t b r).tileAt k' t' = c.tileAt k' t' := rfl

@[simp] theorem setBlk_anaAt (c : Converter) (k : Kind) (t b : Fin 4) (r : BlkRec) (k' : Kind) (t' b' : Fin 4) :
    (c.setBlk k t b r).anaAt k' t' b' = c.anaAt k' t' b' := rfl

theorem setBlk_blkAt (c : Converter) (k : Kind) (t b : Fin 4) (r : BlkRec) (k' : Kind) (t' b' : Fin 4) :
    (c.setBlk k t b r).blkAt k' t' b' = if k' = k ∧ t' = t ∧ b' = b then r else c.blkAt k' t' b' := by
  simp only [Converter.setBlk, Converter.blkAt, PerKind.get_set]
  by_cases hk : k' = k
  · subst hk
    by_cases ht : t' = t
    · subst ht
      simp [Quad.get_set]
    · simp [Quad.get_set, ht]
  · simp [hk]

@[simp] theorem setAna_gen (c : Converter) (k : Kind) (t b : Fin 4) (r : AnaRec) : (c.setAna k t b r).gen = c.gen := rfl

@[simp] theorem setAna_tileAt (c : Converter) (k : Kind) (t b : Fin 4) (r : AnaRec) (k' : Kind) (t' : Fin 4) :
    (c.setAna k t b r).tileAt k' t' = c.tileAt k' t' := rfl

@[simp] theorem setAna_blkAt (c : Converter) (k : Kind) (t b : Fin 4) (r : AnaRec) (k' : Kind) (t' b' : Fin 4) :
    (c.setAna k t b r).blkAt k' t' b' = c.blkAt k' t' b' := rfl

theorem setAna_anaAt (c : Converter) (k : Kind) (t b : Fin 4) (r : AnaRec) (k' : Kind) (t' b' : Fin 4) :
    (c.setAna k t b r).anaAt k' t' b' = if k' = k ∧ t' = t ∧ b' = b then r else c.anaAt k' t' b' := by
  simp only [Converter.setAna, Converter.anaAt, PerKind.get_set]
  by_cases hk : k' = k
  · subst hk
    by_cases ht : t' = t
    · subst ht
      simp [Quad.get_set]
    · simp [Quad.get_set, ht]
  · simp [hk]

/-! ## Parameters -/

/-- The clock-gating parameters of a run from reset meet R174, whatever the free values behind them. -/
theorem config_cg_ordered : Config.cgDelayPow2 < Config.cgDelayExt ∧ Config.cgDelayExt < 2 ^ Config.cgDelayBits := by
  have h1 : 2 ≤ 2 ^ Config.cgDelayBits := by
    have : 1 ≤ Config.cgDelayBits := by unfold Config.cgDelayBits; omega
    calc 2 = 2 ^ 1 := rfl
      _ ≤ _ := Nat.pow_le_pow_right (by omega) this
  have h2 := Nat.mod_lt Config.cgExtDraw (show 0 < 2 ^ Config.cgDelayBits - 1 by omega)
  have h3 : 0 < Config.cgDelayExt := by unfold Config.cgDelayExt; omega
  exact ⟨Nat.mod_lt _ h3, by unfold Config.cgDelayExt; omega⟩

/-- They fit the field, which has at most 32 bits. -/
theorem config_cg_fits : Config.cgDelayExt < 2 ^ 32 := by
  have : Config.cgDelayBits ≤ 32 := by unfold Config.cgDelayBits; omega
  exact Nat.lt_of_lt_of_le config_cg_ordered.2 (Nat.pow_le_pow_right (by omega) this)

/-! ## The port -/

/-- A field's value depends on the stored fields and the widths alone. -/
theorem fieldValue_congr {s t : State} (a : FieldAddr) (hc : Memory.lookup t.conv a.key = Memory.lookup s.conv a.key)
    (hp : t.par = s.par) : fieldValue a t = fieldValue a s := by
  unfold fieldValue
  split
  · rfl
  · rw [hc, hp]

@[simp] theorem fieldValue_portRead (a a' : FieldAddr) (s : State) : fieldValue a' (portRead a s) = fieldValue a' s :=
  fieldValue_congr a' rfl rfl

/-- What `PortRead`s do: they are recorded. -/
theorem portReads_eq (as : List FieldAddr) (s : State) :
    portReads as s = { s with port := s.port ++ as.map fun a => .read a (fieldValue a s) } := by
  induction as generalizing s with
  | nil => simp [portReads]
  | cons a rest ih =>
    simp only [portReads]
    rw [ih]
    simp only [portRead, record, List.map_cons, List.append_assoc, List.singleton_append]
    rfl

/-- What `PortWrite`s do: the contents, and the record. -/
theorem portWrites_eq (ws : List (FieldAddr × Word)) (s : State) :
    portWrites ws s =
      { s with conv := writtenAll s.par s.conv ws, port := s.port ++ ws.map fun w => .write w.1 w.2 } := by
  induction ws generalizing s with
  | nil => simp [portWrites, writtenAll]
  | cons w rest ih =>
    simp only [portWrites]
    rw [ih]
    simp [portWrite, record, writtenAll]

/-- What the recomputation does: its writes to the contents, and the record of its reads and writes. -/
theorem fifoRecompute_eq (c : Converter) (k : Kind) (t b : Fin 4) (ch : Channel) (s : State) :
    fifoRecompute c k t b ch s =
      { s with
        conv := writtenAll s.par s.conv (recomputeWrites c k t b ch s)
        port := (s.port ++ (recomputeReads c k t b ch s).map fun a => .read a (fieldValue a s)) ++
          (recomputeWrites c k t b ch s).map fun w => .write w.1 w.2 } := by
  simp only [fifoRecompute]
  rw [portWrites_eq, portReads_eq]

/-- What a poll does: a queued answer is used up, or a free one counted; the read is recorded. -/
theorem poll_eq (f : TileField) (k : Kind) (t : Fin 4) (s : State) :
    poll f k t s =
      { s with
        tileIn := s.tileIn.tail
        draws := if s.tileIn = [] then s.draws + 1 else s.draws
        port := s.port ++ [.read (.tile f k t) ((flag (nextAnswer s)).setWidth 32)] } := by
  unfold poll
  split <;> next h => simp [record, h]

/-- A held field just written reads as the low bits of the value. -/
theorem fieldValue_portWrite_same (a : FieldAddr) (v : Word) (s : State) (ha : a.notHeld = false) :
    fieldValue a (portWrite a v s) = lowBits (a.width s.par) v := by
  unfold fieldValue
  split
  · next f k t p => exact absurd ha (by simp [FieldAddr.notHeld])
  · simp [lookup_writtenConv_same _ _ ha]

/-- A `PortWrite` of one field leaves every other field's value alone. -/
theorem fieldValue_portWrite_other {a a' : FieldAddr} (v : Word) (s : State) (h : Memory.wf s.conv = true) (hne : a' ≠ a) :
    fieldValue a' (portWrite a v s) = fieldValue a' s :=
  fieldValue_congr a' (lookup_writtenConv_other v h hne) rfl

/-- `PortWrite`s of other fields leave a field's value alone. -/
theorem fieldValue_portWrites_other (ws : List (FieldAddr × Word)) (a : FieldAddr) (s : State) (h : Memory.wf s.conv = true)
    (hne : ∀ w ∈ ws, a ≠ w.1) : fieldValue a (portWrites ws s) = fieldValue a s := by
  refine fieldValue_congr a ?_ ?_
  · rw [portWrites_eq]
    exact lookup_writtenAll_other ws h hne
  · rw [portWrites_eq]

/-- Replayed accesses keep the canonical form. -/
theorem replayed_wf {par : Params} (es : List PortEvent) {m : Memory} (h : Memory.wf m = true) :
    Memory.wf (replayed par m es) = true := by
  induction es generalizing m with
  | nil => exact h
  | cons e rest ih =>
    cases e with
    | read a v => exact ih h
    | write a v => exact ih (writtenConv_wf a v h)
    | writeRestartState k t x y => exact ih (writtenConv_wf _ _ (writtenConv_wf _ _ h))
    | wait => exact ih h

theorem replayed_append (par : Params) (es es' : List PortEvent) (m : Memory) :
    replayed par m (es ++ es') = replayed par (replayed par m es) es' := by
  induction es generalizing m with
  | nil => rfl
  | cons e rest ih => cases e <;> simp only [List.cons_append, replayed, ih]

/-- Replaying writes is making them. -/
theorem replayed_writes (par : Params) (ws : List (FieldAddr × Word)) (m : Memory) :
    replayed par m (ws.map fun w => .write w.1 w.2) = writtenAll par m ws := by
  induction ws generalizing m with
  | nil => rfl
  | cons w rest ih => simp only [List.map_cons, replayed, writtenAll, ih]

/-- Replaying reads changes nothing. -/
theorem replayed_reads (par : Params) (as : List FieldAddr) (v : FieldAddr → Word) (m : Memory) :
    replayed par m (as.map fun a => .read a (v a)) = m := by
  induction as generalizing m with
  | nil => rfl
  | cons a rest ih => simp only [List.map_cons, replayed, ih]

/-! ## Checks and outcomes -/

@[simp] theorem finish_ok (s t : State) : finish s (.ok t) = .next t := rfl

@[simp] theorem finish_error (s : State) (e : Err) : finish s (.error e) = .next (raise e none s) := rfl

/-- A command's outcome is a next state: what its rule leaves, or the posting of its error. -/
theorem finish_next (s : State) (r : Except Err State) :
    (∃ t, r = .ok t ∧ finish s r = .next t) ∨ ∃ e, r = .error e ∧ finish s r = .next (raise e none s) := by
  cases r with
  | ok t => exact .inl ⟨t, rfl, rfl⟩
  | error e => exact .inr ⟨e, rfl, rfl⟩

theorem tileOf_of_lt {t : BitVec 3} (h : t.toNat < 4) : tileOf t = some ⟨t.toNat, h⟩ := by simp [tileOf, h]

theorem tileOf_eq_some {t : BitVec 3} {n : Fin 4} (h : tileOf t = some n) : t.toNat = n.val := by
  unfold tileOf at h
  split at h
  · cases h
    rfl
  · cases h

theorem tileOf_eq_none {t : BitVec 3} : tileOf t = none ↔ 4 ≤ t.toNat := by
  unfold tileOf
  split <;> simp <;> omega

/-- Past the decode checks a one-tile command runs its rule. -/
theorem onTile_of {s : State} {t : BitVec 3} {c : Converter} {n : Fin 4} (rule : Converter → Fin 4 → Except Err State)
    (hc : s.inst = some c) (hn : tileOf t = some n) : onTile s t rule = rule c n := by
  simp [onTile, initialised, oneTile, hc, hn]

/-- What a one-tile command's decode checks can answer. -/
theorem onTile_cases (s : State) (t : BitVec 3) (rule : Converter → Fin 4 → Except Err State) :
    (s.inst = none ∧ onTile s t rule = .error .notInitialized) ∨
      (∃ c, s.inst = some c ∧ 4 ≤ t.toNat ∧ onTile s t rule = .error .invalidArgument) ∨
      ∃ c n, s.inst = some c ∧ tileOf t = some n ∧ onTile s t rule = rule c n := by
  cases hc : s.inst with
  | none => exact .inl ⟨rfl, by simp [onTile, initialised, hc]⟩
  | some c =>
    cases hn : tileOf t with
    | none => exact .inr (.inl ⟨c, rfl, tileOf_eq_none.mp hn, by simp [onTile, initialised, oneTile, hc, hn]⟩)
    | some n => exact .inr (.inr ⟨c, n, rfl, rfl, onTile_of rule hc hn⟩)

/-- The availability checks pass exactly when the tile, the block and its digital path are enabled. -/
theorem available_ok {i : Inputs} {k : Kind} {t b : Fin 4} :
    available i k t b = .ok () ↔ i.tileOn k t = true ∧ i.blockOn k t b = true ∧ i.pathOn k t b = true := by
  unfold available
  cases i.tileOn k t <;> cases i.blockOn k t b <;> cases i.pathOn k t b <;> simp

/-- Past the decode and availability checks a per-block command runs its rule. -/
theorem onBlock_of {s : State} {k : Kind} {t : BitVec 3} {b : Fin 4} {c : Converter} {n : Fin 4}
    (rule : Converter → Fin 4 → Except Err State) (hc : s.inst = some c) (hn : tileOf t = some n)
    (ha : available s.inp k n b = .ok ()) : onBlock s k t b rule = rule c n := by
  simp [onBlock, onTile_of _ hc hn, ha]

/-- What a per-block command's checks can answer. -/
theorem onBlock_cases (s : State) (k : Kind) (t : BitVec 3) (b : Fin 4) (rule : Converter → Fin 4 → Except Err State) :
    (∃ e, onBlock s k t b rule = .error e) ∨
      ∃ c n, s.inst = some c ∧ tileOf t = some n ∧ available s.inp k n b = .ok () ∧ onBlock s k t b rule = rule c n := by
  cases hc : s.inst with
  | none => exact .inl ⟨.notInitialized, by simp [onBlock, onTile, initialised, hc]⟩
  | some c =>
    cases hn : tileOf t with
    | none => exact .inl ⟨.invalidArgument, by simp [onBlock, onTile, initialised, oneTile, hc, hn]⟩
    | some n =>
      cases ha : available s.inp k n b with
      | error e => exact .inl ⟨e, by simp [onBlock, onTile_of _ hc hn, ha]⟩
      | ok u => exact .inr ⟨c, n, rfl, rfl, ha, onBlock_of rule hc hn ha⟩

/-- A walk step at the current tile, when there is one. -/
theorem atTile_of {s : State} {n : Fin 4} (f : Fin 4 → State) (h : s.idx = n.val) : atTile s f = .next (f n) := by
  have hn : walkTile s.idx = some n := by
    simp [walkTile, h]
  simp [atTile, hn]

/-- What a walk step at the current tile can answer. -/
theorem atTile_cases (s : State) (f : Fin 4 → State) :
    (∃ n : Fin 4, s.idx = n.val ∧ atTile s f = .next (f n)) ∨ (4 ≤ s.idx ∧ atTile s f = .fault .walkIndex) := by
  by_cases h : s.idx < 4
  · exact .inl ⟨⟨s.idx, h⟩, rfl, atTile_of f rfl⟩
  · exact .inr ⟨by omega, by simp [atTile, walkTile, h]⟩

/-- Which words start a walk: a RESTART whose decode checks pass. -/
theorem startsWalk_iff (w : Word) (s : State) :
    startsWalk w s = true ↔ ∃ i, decode w = .ok i ∧ i.opcode = .restart ∧ s.inst.isSome = true ∧ i.wf = true := by
  unfold startsWalk
  cases decode w with
  | ok i => simp [State.initDone, and_assoc]
  | error e => simp

/-- An opcode's byte is the one its word carries (R95). -/
theorem code_of_ofCode {c : Byte} {o : Opcode} (h : Opcode.ofCode c = some o) : o.code = c := by
  unfold Opcode.ofCode at h
  repeat' split at h
  all_goals first | (cases h; rename_i h; exact h.symm) | cases h

/-- The command read for an opcode has that opcode. -/
theorem build_opcode (o : Opcode) (w : Word) : (build o w).opcode = o := by cases o <;> rfl

/-- Which words start a walk, by their bits (R94). -/
theorem startsWalk_word (w : Word) (s : State) :
    startsWalk w s = true ↔
      bits w 24 8 = 0x10 ∧ w &&& 0x000FF0F0 = 0 ∧ (bits w 20 3 = 7 ∨ (bits w 20 3).toNat < 4) ∧ s.inst ≠ none := by
  have hwf : (build .restart w).wf = true ↔ bits w 20 3 = 7 ∨ (bits w 20 3).toNat < 4 := by
    have : ∀ t : BitVec 3, (tileSelOk t || t == 7) = true ↔ t = 7 ∨ t.toNat < 4 := by decide
    rw [← this]
    simp only [build, Instr.wf, Instr.formProblem, tileSelOf]
    cases (tileSelOk (bits w 20 3) || bits w 20 3 == 7) <;> simp
  rw [startsWalk_iff, ← hwf, Option.isSome_iff_ne_none]
  constructor
  · rintro ⟨i, hd, ho, hi, hw⟩
    unfold decode at hd
    split at hd
    · cases hd
    · next o h =>
      split at hd
      · next hm =>
        cases hd
        rw [build_opcode] at ho
        subst ho
        exact ⟨(code_of_ofCode h).symm, hm, hw, hi⟩
      · cases hd
  · rintro ⟨ho, hm, hw, hi⟩
    refine ⟨build .restart w, ?_, build_opcode .restart w, hi, hw⟩
    unfold decode
    rw [ho]
    exact if_pos hm

/-- The range of an "all" walk, and of an addressed one (R112). -/
@[simp] theorem walkRange_all : walkRange 7 = (0, 3) := rfl
theorem walkRange_one {t : BitVec 3} (h : t.toNat < 4) : walkRange t = (t.toNat, t.toNat) :=
  if_neg (by rintro rfl; exact absurd h (by decide))

/-- What acceptance does, beyond the latching: the first state, and the walk's range for a RESTART that decodes. -/
theorem accept_eq (w : Word) (s : State) :
    accept w s = if startsWalk w (latch w s) then startWalk (tileSelOf w) (latch w s) else { latch w s with seq := .exec } := rfl

/-- Whose turn it is, and what counting the turn changes: the input queue alone. -/
theorem turn_eq (s : State) : ∃ i q, turn s = (i, { s with hostIn := q }) := by
  unfold turn
  split
  · next h => exact ⟨none, s.hostIn, rfl⟩
  · split
    · exact ⟨_, _, rfl⟩
    · exact ⟨_, _, rfl⟩
    · split
      · exact ⟨_, _, rfl⟩
      · exact ⟨none, s.hostIn, rfl⟩

/-- With no input queued the step is the engine's. -/
theorem step_of_no_input {s : State} (h : s.hostIn = []) : step s = engineStep s := by
  simp [step, transition, turn, h]

end Machine

end Sys2Proof
end

