-- ==== Sys2Proof/Laws/PerInstr.lean ====
section
/-! SUPPORT. Statements made per command, about the command as syntax. -/

namespace Sys2Proof.Laws

/-- The top byte of a command's word is its opcode, and the opcode is read back as the command's (R95). -/
def EncodesOpcode.Statement (i : Instr) : Prop :=
  bits (encode i) 24 8 = i.opcode.code ∧ Opcode.ofCode (bits (encode i) 24 8) = some i.opcode

/-- The top byte of any opcode byte followed by 24 operand bits. -/
theorem bits_opcode (c : Byte) (x : BitVec 24) : bits (c ++ x) 24 8 = c := by
  apply BitVec.eq_of_getLsbD_eq
  intro j hj
  simp only [bits, BitVec.getLsbD_extractLsb', BitVec.getLsbD_append]
  simp [hj]

/-- The opcode map is read back (R95). -/
theorem ofCode_code (o : Opcode) : Opcode.ofCode o.code = some o := by cases o <;> rfl

/-- The family's fact holds of every command. -/
theorem encodesOpcode (i : Instr) : EncodesOpcode.Statement i := by
  have h : bits (encode i) 24 8 = i.opcode.code := bits_opcode _ _
  exact ⟨h, by rw [h, ofCode_code]⟩

theorem EncodesOpcode.init : EncodesOpcode.Statement .init := encodesOpcode _
theorem EncodesOpcode.getStatus (k : Kind) (t : BitVec 3) (b : Fin 4) : EncodesOpcode.Statement (.getStatus k t b) :=
  encodesOpcode _
theorem EncodesOpcode.restart (k : Kind) (t : BitVec 3) (start stop : BitVec 4) :
    EncodesOpcode.Statement (.restart k t start stop) := encodesOpcode _
theorem EncodesOpcode.resolvePair (k : Kind) (t : BitVec 3) (b : Fin 4) (mb : BitVec 2) (cat : Category) :
    EncodesOpcode.Statement (.resolvePair k t b mb cat) := encodesOpcode _
theorem EncodesOpcode.getPair (k : Kind) (t : BitVec 3) (b : Fin 4) : EncodesOpcode.Statement (.getPair k t b) :=
  encodesOpcode _
theorem EncodesOpcode.setRate (k : Kind) (t : BitVec 3) (b : Fin 4) (ch : Channel) (factor : BitVec 6) :
    EncodesOpcode.Statement (.setRate k t b ch factor) := encodesOpcode _
theorem EncodesOpcode.getRate (k : Kind) (t : BitVec 3) (b : Fin 4) (ch : Channel) :
    EncodesOpcode.Statement (.getRate k t b ch) := encodesOpcode _
theorem EncodesOpcode.setMixer (k : Kind) (t : BitVec 3) (b : Fin 4) : EncodesOpcode.Statement (.setMixer k t b) :=
  encodesOpcode _
theorem EncodesOpcode.getMixer (k : Kind) (t : BitVec 3) (b : Fin 4) : EncodesOpcode.Statement (.getMixer k t b) :=
  encodesOpcode _
theorem EncodesOpcode.setNyquist (k : Kind) (t : BitVec 3) (b : Fin 4) (z : BitVec 2) :
    EncodesOpcode.Statement (.setNyquist k t b z) := encodesOpcode _
theorem EncodesOpcode.getNyquist (k : Kind) (t : BitVec 3) (b : Fin 4) : EncodesOpcode.Statement (.getNyquist k t b) :=
  encodesOpcode _

end Sys2Proof.Laws
end

