-- ==== Sys2Proof/Tests/Slice0.lean ====
section
/-! SUPPORT. Our own tests: ill-formed terms, words written out from the encoding tables, one-step tests against the vectors of
95_test_vectors.md, and for each statement with hypotheses a state and operands that meet them. -/

namespace Sys2Proof.Tests

open Sys2Proof.Machine

/-! ## Small states -/

/-- Concrete parameters: budgets 2 and 3, delays 0 and 7 in 4 bits. -/
def par : Params :=
  { Config.params with
    lockMaxRetries := 2
    clrMaxRetries := 3
    cgDelayPow2 := 0
    cgDelayExt := 7
    cgDelayBits := 4
    hostBase := 0 }

/-- S0 with ADC tiles 1 and 2 high-speed, ADC tile 3 disabled, DAC block (0, 1) disabled and the path of DAC block (0, 2) disabled. -/
def inp : Inputs :=
  { Config.inputs with
    hsAdc := ⟨false, true, true, false⟩
    tileEnabled := Config.inputs.tileEnabled.set .adc ⟨true, true, true, false⟩
    blockEnabled := Config.inputs.blockEnabled.set .dac ((Config.inputs.blockEnabled.get .dac).set 0 ⟨true, false, true, true⟩)
    dpEnabled := Config.inputs.dpEnabled.set .dac ((Config.inputs.dpEnabled.get .dac).set 0 ⟨true, true, false, true⟩) }

/-- The converter record INIT leaves, of a generation. -/
def conv (g : Nat) : Converter := { initConverter inp with gen := g }

/-- As `conv`, with every ADC block in calibration mode 1 and ADC tile 0 on its internal PLL. -/
def convCal (g : Nat) : Converter :=
  let a : AnaRec := { Config.s0Ana with cal := .mode1 }
  let q : Quad AnaRec := ⟨a, a, a, a⟩
  let c := conv g
  { c with ana := c.ana.set .adc ⟨q, q, q, q⟩, tile := c.tile.set .adc ((c.tile.get .adc).set 0 { Config.s0Tile with clkSrc := .internalPll }) }

/-- A state with a command running: the converter record, the latched word and operands, the sequencer state. -/
def busy (c : Option Converter) (w : Word) (q : Seq) (a : ArgLatch) : State :=
  { State.reset with
    status := { State.reset.status with busy := true, done := false }
    cmd := w
    cmdL := w
    argL := a
    seq := q
    inst := c
    inp := inp
    par := par }

/-- No operands. -/
def noArgs : ArgLatch := { arg0L := 0, arg0H := 0, arg1 := 0, arg2 := 0 }

/-- A command other than RESTART about to run. -/
def ready (g : Nat) : State := busy (some (conv g)) 0 .exec noArgs

/-- SET_MIXER about to run with a settings word and a phase, frequency 0, both rates of ADC block (0, 0) written OFF. -/
def mixing (c : Converter) (set ph : Word) : State :=
  { busy (some c) 0x40000000 .exec { noArgs with arg1 := ph, arg2 := set } with
    conv := [(FieldAddr.key (.blk (.rateFactor .live) .adc 0 0), 0), (FieldAddr.key (.blk (.rateFactor .obs) .adc 0 0), 0)] }

/-- A RESTART of ADC tile 0 (0x1000010F) in a walk state. -/
def walking (q : Seq) : State := busy (some (convCal 3)) 0x1000010F q noArgs

/-- The state an outcome leaves; the reset state where it leaves none. -/
def next (o : Host.Outcome State Fault Refusal) : State :=
  match o with
  | .next t => t
  | .fault _ => State.reset
  | .refused _ => State.reset

/-- One input due. -/
def input (i : HostInput) (s : State) : State := { s with hostIn := [{ gate := .after 0, input := i }] }

/-! ## Ill-formed commands -/

theorem test_wf_tile_selector : (Instr.getMixer .adc 4 0).formProblem = some .tileSelector := by decide

theorem test_wf_tile_all_only_restart :
    (Instr.setRate .dac 7 0 .live 1).formProblem = some .tileSelector ∧ (Instr.restart .dac 7 0 15).wf = true ∧
      (Instr.restart .dac 5 0 15).formProblem = some .tileSelector := by decide

theorem test_wf_multiband_code : (Instr.resolvePair .adc 0 0 3 .iq).formProblem = some .multiBandCode := by decide

theorem test_wf_zone_code :
    (Instr.setNyquist .adc 0 0 0).formProblem = some .zoneCode ∧ (Instr.setNyquist .adc 0 0 3).formProblem = some .zoneCode := by
  decide

theorem test_wf_selector_before_code : (Instr.setNyquist .adc 6 0 0).formProblem = some .tileSelector := by decide

/-! ## Decoding, one word per command, written out from R81, R85 and R95 -/

theorem test_decode_init : decode 0b00000001_0_000_00_0_0_0000000000000000#32 = .ok .init := by rfl
theorem test_decode_getStatus : decode 0b00000010_1_001_10_0_0_0000000000000000#32 = .ok (.getStatus .dac 1 2) := by rfl
theorem test_decode_restart : decode 0b00010000_1_111_00_0_0_0000_0001_0000_1111#32 = .ok (.restart .dac 7 1 15) := by rfl
theorem test_decode_resolvePair : decode 0b00100000_0_000_11_0_0_00000000000_1_00_01#32 = .ok (.resolvePair .adc 0 3 1 .iq) := by rfl
theorem test_decode_getPair : decode 0b00100001_0_010_01_0_0_0000000000000000#32 = .ok (.getPair .adc 2 1) := by rfl
theorem test_decode_setRate : decode 0b00110000_0_000_01_1_0_0000000000_001000#32 = .ok (.setRate .adc 0 1 .obs 8) := by rfl
theorem test_decode_getRate : decode 0b00110001_1_011_00_1_0_0000000000000000#32 = .ok (.getRate .dac 3 0 .obs) := by rfl
theorem test_decode_setMixer : decode 0b01000000_1_001_00_0_0_0000000000000000#32 = .ok (.setMixer .dac 1 0) := by rfl
theorem test_decode_getMixer : decode 0b01000001_0_010_11_0_0_0000000000000000#32 = .ok (.getMixer .adc 2 3) := by rfl
theorem test_decode_setNyquist : decode 0b01000010_0_010_00_0_0_00000000000000_01#32 = .ok (.setNyquist .adc 2 0 1) := by rfl
theorem test_decode_getNyquist : decode 0b01000011_0_010_10_0_0_0000000000000000#32 = .ok (.getNyquist .adc 2 2) := by rfl
theorem test_decode_opcode_00 : decode 0x00000000 = .error .illegalOpcode := by rfl
theorem test_decode_opcode_ff : decode 0xFF000000 = .error .illegalOpcode := by rfl
theorem test_decode_reserved : decode 0x30010001 = .error (.reservedBits .setRate) := by rfl

/-! ## One step each (95_test_vectors.md) -/

/-- D4: INIT from reset ends OK. -/
theorem test_init_ok : statusWord (next (exec .init (busy none 0x01000000 .exec noArgs))) = 0x0000000A := by decide

/-- P1: after INIT of an all-OFF snapshot block 2's pair is (2, -1). -/
theorem test_init_pairs : ((initConverter inp).blkAt .adc 0 2).connI = some 2 ∧ ((initConverter inp).blkAt .adc 0 2).connQ = none := by
  decide

/-- A5, and the sample rate of R246. -/
theorem test_getStatus_disabled : statusWord (next (exec (.getStatus .adc 3 0) (ready 3))) = 0x0000030A := by decide
theorem test_getStatus_rate : (next (exec (.getStatus .adc 0 0) (ready 3))).res1 = 0xEE6B2800 := by decide

/-- P2 and P4. -/
theorem test_resolvePair_mb2x : (next (exec (.resolvePair .adc 0 3 1 .iq) (ready 3))).res0 = 0x00000302 := by decide
theorem test_resolvePair_hs_mb4x : (next (exec (.resolvePair .adc 1 1 2 .iq) (ready 3))).res0 = 0x00000200 := by decide

/-- P1. -/
theorem test_getPair : (next (exec (.getPair .adc 0 2) (ready 3))).res0 = 0x0000FF02 := by decide

/-- R1: on generation 2 the code of 8 is 4; R10: the channel check comes before the factor's. -/
theorem test_setRate_legacy : fieldValue (.blk (.rateFactor .live) .adc 0 0) (next (exec (.setRate .adc 0 0 .live 8) (ready 2))) = 4 := by
  decide
theorem test_setRate_channel_first : (next (exec (.setRate .dac 0 0 .obs 7) (ready 3))).status.err = 9 := by decide

/-- R13: the legacy code 4 reads back as 8; 2.4.5: code 7 has no decode. -/
theorem test_getRate_legacy :
    (next (exec (.getRate .adc 0 0 .live) { ready 2 with conv := [(FieldAddr.key (.blk (.rateFactor .live) .adc 0 0), 4)] })).res0 = 8 := by
  decide
theorem test_getRate_no_decode :
    statusWord (next (exec (.getRate .adc 0 0 .live) { ready 3 with conv := [(FieldAddr.key (.blk (.rateFactor .live) .adc 0 0), 7)] })) =
      0x0000070A := by decide

/-- 2.5.2: the phase of 3 millidegrees; the boundary of §8. -/
theorem test_setMixer_phase : phaseWordAt .adc 0 0 (next (exec (.setMixer .adc 0 0) (mixing (conv 3) 0x26 (-3)))) = 0x1FFFF := by decide
theorem test_setMixer_phase_limit : statusWord (next (exec (.setMixer .adc 0 0) (mixing (conv 3) 0x26 180000))) = 0x0000010A := by decide

/-- 2.5.3: the compensation at frequency 0, and the selector swapped back. -/
theorem test_getMixer_swap :
    (next (exec (.getMixer .adc 0 0) (next (exec (.setMixer .adc 0 0) (mixing (convCal 2) 0x25 0))))).res3 = 0x25 := by decide
theorem test_getMixer_freq :
    (next (exec (.getMixer .adc 0 0) (next (exec (.setMixer .adc 0 0) (mixing (convCal 2) 0x26 0))))).res0 = 0 := by decide

/-- Scenario C. -/
theorem test_setNyquist_flip :
    fieldValue (.blk .nyqZone .adc 2 1) (next (exec (.setNyquist .adc 2 0 1) (busy (some (convCal 2)) 0 .exec noArgs))) = 1 := by decide
theorem test_getNyquist_flip :
    (next (exec (.getNyquist .adc 2 0) { busy (some (convCal 2)) 0 .exec noArgs with
      conv := [(FieldAddr.key (.blk .nyqZone .adc 2 0), 1)] })).res0 = 1 := by decide

/-- S2's downgrade; S8's timeout. -/
theorem test_restart_downgrade :
    (next (exec (.restart .adc 1 1 1) { walking .rWrite with idx := 1, lastIdx := 1 })).endEff = 3 := by decide
theorem test_restart_timeout :
    statusWord (next (exec (.restart .adc 0 1 15) { walking .rLock with retry := 2, tileIn := [false] })) = 0x0008060A := by decide

/-- R199's worked frequencies (2.5.1): 1 Hz, and +E/2. -/
theorem test_freq_word : freqWord 1 8000000000 false .odd = 0x0000000112E0 ∧ freqWord 2000000000 8000000000 false .odd = 0x800000000000 := by
  decide

/-- 2.5.3: -1e9 Hz compensated, in either zone. -/
theorem test_freq_word_compensated :
    freqWord (-1000000000) 8000000000 true .odd = 0x400000000000 ∧ freqWord (-1000000000) 8000000000 true .even = 0xC00000000000 := by decide

/-- The host reads `STATUS` at reset (R21), and a byte access has no step (R71). -/
theorem test_read_status : (next (step (input (.read .w32 0x04) State.reset))).hostOut = [0x00000002] := by decide
theorem test_byte_access : step (input (.read .w8 0x04) State.reset) = .refused .undefinedHostAccess := by rfl

/-! ## For each statement with hypotheses, states and operands that meet them, clause by clause -/

/-- SET_RATE of 8 about to run on ADC block (0, 0), and what it leaves. -/
def rated : State := next (exec (.setRate .adc 0 0 .live 8) (ready 2))

theorem witness_EncodeWritesDecode : decode 0x10F0010F = .ok (.restart .dac 7 1 15) := by rfl

theorem witness_DecodeChecksInOrder_opcode :
    (busy none 0xFF000000 .exec noArgs).seq ≠ .idle ∧ (busy none 0xFF000000 .exec noArgs).hostIn = [] ∧
      ∀ o : Opcode, bits 0xFF000000 24 8 ≠ o.code := by
  refine ⟨by decide, rfl, ?_⟩
  intro o
  cases o <;> decide

theorem witness_DecodeChecksInOrder_uninitialised :
    bits 0x30000001 24 8 = Opcode.setRate.code ∧ Opcode.setRate ≠ .init ∧ (busy none 0x30000001 .exec noArgs).inst = none := by decide

theorem witness_DecodeChecksInOrder_reserved :
    bits 0x01000001 24 8 = Opcode.init.code ∧ 0x01000001#32 &&& Opcode.init.reservedZeroMask ≠ 0 ∧
      bits 0x40020000 24 8 = Opcode.setMixer.code ∧ 0x40020000#32 &&& Opcode.setMixer.reservedZeroMask ≠ 0 := by decide

theorem witness_DecodeChecksInOrder_tile :
    bits 0x30400001 24 8 = Opcode.setRate.code ∧ 0x30400001#32 &&& Opcode.setRate.reservedZeroMask = 0 ∧ bits 0x30400001 20 3 = 4 ∧
      bits 0x10600000 24 8 = Opcode.restart.code ∧ 0x10600000#32 &&& Opcode.restart.reservedZeroMask = 0 ∧ bits 0x10600000 20 3 = 6 ∧
      bits 0x30700001 20 3 = 7 ∧ Opcode.setRate ≠ .restart := by decide

theorem witness_DecodeChecksInOrder_codes :
    0x200C0003#32 &&& Opcode.resolvePair.reservedZeroMask = 0 ∧ bits 0x200C0003 0 2 = 3 ∧ (bits 0x200C0003 20 3).toNat < 4 ∧
      0x42000000#32 &&& Opcode.setNyquist.reservedZeroMask = 0 ∧ bits 0x42000000 0 2 = 0 ∧ bits 0x42000003 0 2 = 3 := by decide

theorem witness_DecodeChecksInOrder_runs :
    0x10F0010F#32 &&& Opcode.restart.reservedZeroMask = 0 ∧ bits 0x10F0010F 20 3 = 7 ∧
      0x42300002#32 &&& Opcode.setNyquist.reservedZeroMask = 0 ∧ (bits 0x42300002 20 3).toNat < 4 ∧ bits 0x42300002 0 2 = 2 := by decide

theorem witness_StepRunsDecodedCommand :
    (walking .rWrite).seq ≠ .idle ∧ decode (walking .rWrite).cmdL = .ok (.restart .adc 0 1 15) ∧ (walking .rWrite).hostIn = [] ∧
      (walking .rWrite).status.done = false := ⟨by decide, rfl, rfl, rfl⟩

/-- The same state with an input due three engine steps later, and with one that waits for `DONE`. -/
theorem witness_StepRunsDecodedCommand_gates :
    { walking .rWrite with hostIn := [{ gate := .after 3, input := .read .w32 0x04 }] }.hostIn =
        { gate := .after (2 + 1), input := .read .w32 0x04 } :: [] ∧
      { walking .rWrite with hostIn := [{ gate := .done, input := .read .w32 0x04 }] }.hostIn =
        { gate := .done, input := .read .w32 0x04 } :: [] := ⟨rfl, rfl⟩

theorem witness_PlacedCommandRunsNext : decodeTableWord 32 0x42200001 = some (.setNyquist .adc 2 0 1) := by rfl

/-- Idle after INIT, and words that start a walk: every tile, and the last tile. -/
theorem witness_AcceptanceLatches_walks :
    { ready 3 with seq := .idle }.seq = .idle ∧ { ready 3 with seq := .idle }.inst ≠ none ∧
      bits 0x1070010F 24 8 = 0x10 ∧ 0x1070010F#32 &&& 0x000FF0F0 = 0 ∧ bits 0x1070010F 20 3 = 7 ∧
      bits 0x1030010F 24 8 = 0x10 ∧ 0x1030010F#32 &&& 0x000FF0F0 = 0 ∧ (bits 0x1030010F 20 3).toNat < 4 := by decide

/-- Words that start none: before INIT, a reserved bit, a reserved selector, another opcode; and a write while a command runs. -/
theorem witness_AcceptanceLatches_others :
    (input (.write .w32 0x00 0x1070010F) State.reset).hostIn = [{ gate := .after 0, input := .write .w32 0x00 0x1070010F }] ∧
      State.reset.seq = .idle ∧ State.reset.inst = none ∧ 0x1008010F#32 &&& 0x000FF0F0 ≠ 0 ∧ bits 0x1040010F 20 3 = 4 ∧
      bits 0x01000000 24 8 ≠ 0x10 ∧ (walking .rLock).seq ≠ .idle := by decide

/-- R94, R97: a RESTART refused for its selector has left the walk's registers alone. -/
theorem test_refused_restart_keeps_walk :
    (next (step (input (.write .w32 0x00 0x1040010F) { ready 3 with seq := .idle, idx := 2, lastIdx := 3 }))).idx = 2 ∧
      (next (step (next (step (input (.write .w32 0x00 0x1040010F) { ready 3 with seq := .idle, idx := 2, lastIdx := 3 }))))).status.err = 1 := by
  decide

theorem witness_HostReadsWindow :
    (0x2C#6).toNat % 4 = 0 ∧ 0x2C ≤ (0x2C#6).toNat ∧ (0x3C#6).toNat % 4 = 0 ∧ 0x2C ≤ (0x3C#6).toNat ∧
      (input (.read .w32 0x28) (ready 3)).hostIn = [{ gate := .after 0, input := .read .w32 0x28 }] ∧ State.reset.inst = none ∧
      (ready 3).inst = some (conv 3) := by decide

/-- `CAP` (R20): generation 3, ADC tiles 1 and 2 high-speed. -/
theorem test_cap_word : capWord (ready 3) = 0x00000063 := by decide

theorem witness_HostWritesWindow :
    (0x18#6).toNat % 4 = 0 ∧ 0x18 ≤ (0x18#6).toNat ∧ (0x3C#6).toNat % 4 = 0 ∧ 0x18 ≤ (0x3C#6).toNat ∧
      (input (.write .w32 0x14 7) (ready 3)).hostIn = [{ gate := .after 0, input := .write .w32 0x14 7 }] := by decide

theorem witness_UndefinedHostAccessRefused :
    AccessWidth.w64 ≠ .w32 ∧ (0x3F#6).toNat % 4 ≠ 0 ∧ (0x01#6).toNat % 4 ≠ 0 ∧
      (input (.write .w32 0x01 0) State.reset).hostIn = [{ gate := .after 0, input := .write .w32 0x01 0 }] := by decide

theorem witness_EngineResetIsOneStep :
    (input .reset (walking .rLock)).hostIn = [{ gate := .after 0, input := .reset }] := rfl

theorem witness_EngineResetAmidCommand :
    (input (.resetAmid 1) (ready 3)).hostIn = [{ gate := .after 0, input := .resetAmid 1 }] ∧
      ∃ u, engineStep { input (.resetAmid 1) (busy (some (conv 2)) 0x42200002 .exec noArgs) with hostIn := [] } = .next u ∧
        u.port.length = 2 := ⟨rfl, _, rfl, by decide⟩

/-- A walk in its lock poll meets the invariant. -/
theorem witness_StepKeepsInv : (walking .rLock).Inv where
  conv_wf := rfl
  conv_fits := fun a v h => absurd h (by simp [walking, busy, State.reset, Memory.lookup])
  conv_held := fun a _ => rfl
  busy := rfl
  done := rfl
  err := rfl
  failTile := by decide
  failValid := fun _ => ⟨rfl, rfl⟩
  lastIdx := by decide
  idx := by decide
  tile := fun _ => by decide
  timer := by decide
  lockRetry := fun _ => by decide
  clearRetry := fun _ => by decide
  record := by
    intro c hc
    obtain rfl : convCal 3 = c := by simpa [walking, Tests.busy] using hc
    refine ⟨by decide, ?_, ?_, ?_, ?_, ?_, by decide, ?_⟩
    · intro k; cases k <;> decide
    · intro k; cases k <;> decide
    · intro k; cases k <;> decide
    · intro k t b ch
      cases k <;> cases ch <;> revert t b <;> decide
    · decide
    · intro k t b
      refine ⟨.real, .single, 4, ?_⟩
      revert t b
      cases k <;> decide
  params := ⟨fun r h => absurd h (by simp [walking, Tests.busy, par, Config.params]), by decide, by decide⟩
  mixerTable := by
    intro ty md sl hs odd
    cases ty <;> cases md <;> cases sl <;> cases hs <;> cases odd <;> decide

theorem witness_StepKeepsInv_step : ∃ t, step (walking .rWrite) = .next t := ⟨_, rfl⟩

theorem witness_CommandsEndWithinBound : (walking .rLock).hostIn = [] ∧ (walking .rLock).seq ≠ .idle := by decide

theorem witness_FieldPrimitivesOverRegisters :
    1 + 15 ≤ 16 ∧ 15 + 0 ≤ 16 ∧ 0 + 15 ≤ 15 ∧ Memory.wf rated.conv = true ∧ (FieldAddr.blk .rateDtype .adc 0 0).notHeld = false ∧
      FieldAddr.blk .rateDtype .adc 0 1 ≠ .blk .rateDtype .adc 0 0 := by decide

theorem witness_ErrorsChangeNothingElse :
    isRestart (.setMixer .adc 0 0) = false ∧
      ∃ t, exec (.setMixer .adc 0 0) (mixing (conv 3) 0x26 180000) = .next t ∧ t.status.err ≠ 0 := ⟨rfl, _, rfl, by decide⟩

theorem witness_GettersChangeNoConfiguration : ∃ t, exec (.getNyquist .dac 3 3) (ready 3) = .next t := ⟨_, rfl⟩

theorem witness_InitLoadsSnapshot : validSnapshot (ready 3).inp = true := by decide

theorem witness_SnapshotValidity :
    validSnapshot { inp with snapshot := { inp.snapshot with gen := 0 } } = false ∧
      validSnapshot { inp with snapshot := { inp.snapshot with gen := 16 } } = false ∧
      validSnapshot { inp with snapshot := { inp.snapshot with gen := 15 } } = true := by decide

/-- A DAC block in calibration mode 1 is not valid; an ADC block in it is (R32). -/
theorem test_validSnapshot_dac_cal :
    validSnapshot { inp with snapshot := { inp.snapshot with ana := inp.snapshot.ana.set .dac ((convCal 3).ana.get .adc) } } = false ∧
      validSnapshot { inp with snapshot := { inp.snapshot with ana := inp.snapshot.ana.set .adc ((convCal 3).ana.get .adc) } } = true := by
  decide

theorem witness_GetStatusPosts :
    (ready 3).inst = some (conv 3) ∧ (3#3).toNat = (3 : Fin 4).val ∧ (ready 3).inp.tileOn .dac 3 = true ∧
      (ready 3).inp.tileOn .adc 3 = false := by decide

theorem witness_ResolvePairWritesOnePair :
    (ready 3).inst = some (conv 3) ∧ (0#3).toNat = (0 : Fin 4).val ∧ (ready 3).inp.hs .adc 1 = true ∧ (ready 3).inp.hs .adc 0 = false := by
  decide

theorem witness_GetPairPosts :
    ((conv 3).blkAt .adc 0 2).connQ = none ∧ ((conv 3).blkAt .adc 0 2).connI = some 2 ∧
      (((conv 3).setBlk .adc 0 0 { (conv 3).blkAt .adc 0 0 with connI := none, connQ := some 3 }).blkAt .adc 0 0).connQ = some 3 := by
  decide

theorem witness_PhysicalBlockMap :
    inp.hs .adc 0 = false ∧ inp.hs .adc 1 = true ∧ ((conv 3).blkAt .adc 1 1).connQ = none ∧
      (((conv 3).setBlk .adc 1 3 { (conv 3).blkAt .adc 1 3 with connQ := some 3 }).blkAt .adc 1 3).connQ ≠ none := by decide

theorem witness_WriteSpan :
    inp.hs .adc 1 = true ∧ phys inp (conv 3) .adc 1 0 = 0 ∧ phys inp (conv 3) .adc 1 3 = 2 ∧
      phys inp ((conv 3).setBlk .adc 1 3 { (conv 3).blkAt .adc 1 3 with connQ := some 3 }) .adc 1 3 = 3 := by decide

theorem witness_HighSpeedAliasMatchesBlockTwo :
    (ready 3).inst = some (conv 3) ∧ (1#3).toNat = (1 : Fin 4).val ∧ (ready 3).inp.hs .adc 1 = true ∧
      ((conv 3).blkAt .adc 1 1).connQ = none ∧ (ready 3).inp.tileOn .adc 1 = true ∧ (ready 3).inp.blockOn .adc 1 1 = true ∧
      (ready 3).inp.blockOn .adc 1 2 = true ∧ (ready 3).inp.pathOn .adc 1 1 = true ∧ (ready 3).inp.pathOn .adc 1 2 = true := by decide

/-- Physical block 2 of ADC tile 1 holding COARSE, C2C, FS2 for an immediate event. -/
def aliased : State :=
  portWrites [(.blk .mixCoarse .adc 1 2, 2), (.blk .mixFine .adc 1 2, 0x65), (.blk .mixScale .adc 1 2, 0), (.blk .mixEvt .adc 1 2, 0)]
    (ready 3)

theorem witness_HighSpeedAliasMatchesBlockTwo_mixer :
    aliased.inst = some (conv 3) ∧ (conv 3).anaAt .adc 1 1 = (conv 3).anaAt .adc 1 2 ∧
      ((conv 3).blkAt .adc 1 1).mix.freq = ((conv 3).blkAt .adc 1 2).mix.freq ∧
      mixerDec aliased.par (fieldValue (.blk .mixCoarse .adc 1 2) aliased) (fieldValue (.blk .mixFine .adc 1 2) aliased) true false ≠ none ∧
      ((fieldValue (.blk .mixEvt .adc 1 2) aliased).extractLsb' 0 3).toNat ≤ 4 ∧
      (fieldValue (.blk .mixScale .adc 1 2) aliased).extractLsb' 0 2 ≠ 3 := by decide

theorem witness_FactorCodes : legalFactor 8 2 = true ∧ legalFactor 40 3 = true ∧ 7 ∉ factors ∧ (3 : Nat) ≤ 3 ∧ 4 < 5 := by decide

theorem witness_SetRateProgramsSpan :
    Memory.wf (ready 3).conv = true ∧ (ready 3).inst = some (conv 3) ∧ (1#3).toNat = (1 : Fin 4).val ∧ (ready 3).inp.tileOn .adc 1 = true ∧
      (ready 3).inp.blockOn .adc 1 0 = true ∧ (ready 3).inp.pathOn .adc 1 0 = true ∧ 3 ≤ (conv 3).gen ∧
      legalFactor (40#6).toNat (conv 3).gen = true ∧ legalFactor (0#6).toNat (conv 3).gen = true := by decide

theorem witness_FifoWidthTracksRate_parameters : ParamsOk (ready 2).par :=
  ⟨fun r h => absurd h (by simp [ready, busy, par, Config.params]), by decide, by decide⟩

theorem witness_FifoWidthTracksRate :
    ∃ t, exec (.setRate .adc 0 0 .live 8) (ready 2) = .next t ∧ t.status.err = 0 ∧ Memory.wf (ready 2).conv = true := ⟨_, rfl, by decide⟩

/-- Both ends of the table's columns, and a row of the implementation's table found and not found. -/
theorem witness_FifoWidthTracksRate_table :
    (0 : Nat) ∈ factors ∧ (40 : Nat) ∈ factors ∧ [(2, 4), (1, 8)] = [(2, 4)] ++ (1, 8) :: [] ∧ (∀ r ∈ [(2, 4)], r.1 ≠ 1) ∧
      (∀ r ∈ [(2, 4), (1, 8)], r.1 ≠ 3) := by decide

theorem witness_PerBlockErrorsInOrder :
    (ready 3).inp.tileOn .adc 3 = false ∧ (ready 3).inp.tileOn .dac 0 = true ∧ (ready 3).inp.blockOn .dac 0 1 = false ∧
      (ready 3).inp.blockOn .dac 0 2 = true ∧ (ready 3).inp.pathOn .dac 0 2 = false ∧ (ready 3).inp.pathOn .dac 0 0 = true ∧
      (conv 2).gen < 3 ∧ (16#6).toNat ∉ [0, 1, 2, 4, 8] ∧ (7#6).toNat ∉ [0, 1, 2, 3, 4, 5, 6, 8, 10, 12, 16, 20, 24, 40] := by decide

theorem witness_GetRatePosts :
    factorDecode 4 (conv 2).gen = some 8 ∧ factorDecode 5 (conv 2).gen = none ∧ factorDecode 7 (conv 3).gen = none ∧
      (fieldValue (.blk (.rateFactor .live) .adc 0 0)
        { ready 2 with conv := [(FieldAddr.key (.blk (.rateFactor .live) .adc 0 0), 4)] }).toNat = 4 := by decide

theorem witness_RateRoundTrip :
    exec (.setRate .adc 0 0 .live 8) (ready 2) = .next rated ∧ rated.status.err = 0 ∧ Memory.wf (ready 2).conv = true ∧
      ∃ d, rated.inst = some d ∧ d.gen = (conv 2).gen ∧ phys (ready 2).inp d .adc 0 0 = phys (ready 2).inp (conv 2) .adc 0 0 :=
  ⟨rfl, by decide, by decide, _, rfl, by decide⟩

/-- The settings of 0x26: FINE, C2C, BYPASS, IMMEDIATE, AUTO. -/
def fine : Settings := { type := .fine, mode := .c2c, sel := .bypass, evt := .immediate, scale := .auto }

theorem witness_SetMixerProgramsSpan :
    (mixing (convCal 2) 0x26 179999).inst = some (convCal 2) ∧ settingsOf (mixing (convCal 2) 0x26 179999).argL.arg2 = some fine ∧
      Memory.wf (mixing (convCal 2) 0x26 179999).conv = true ∧ (fine.type = .off ↔ fine.mode = .off) ∧
      ¬(fine.type = .fine ∧ fine.mode = .r2r) ∧ ¬(fine.type = .coarse ∧ fine.sel = .off) ∧ fine.evt ≠ .marker ∧
      fine.evt ∈ (mixing (convCal 2) 0x26 179999).par.hsEventSet ∧ (mixing (convCal 2) 0x26 179999).argL.arg1.toInt < 180000 ∧
      -180000 < (mixing (convCal 2) 0x26 179999).argL.arg1.toInt := by decide

theorem witness_SetMixerProgramsSpan_frequency :
    4 * |(freqArg (mixing (convCal 2) 0x26 0).argL).toInt| ≤ (halfRate (convCal 2) .adc 0 0 : Int) := by decide

theorem witness_SetMixerErrorsInOrder :
    settingsOf 0x00002000 = none ∧ settingsOf 0x00000003 = none ∧
      settingsOf 0x12 = some { type := .fine, mode := .r2r, sel := .off, evt := .immediate, scale := .auto } ∧
      settingsOf 0x05 = some { type := .coarse, mode := .c2c, sel := .off, evt := .immediate, scale := .auto } ∧
      settingsOf 0x01 = some { type := .coarse, mode := .off, sel := .off, evt := .immediate, scale := .auto } ∧
      settingsOf 0x426 = some { fine with evt := .marker } ∧ settingsOf 0x126 = some { fine with evt := .slice } ∧
      (ready 3).inp.hs .adc 1 = true ∧ EventSrc.slice ∉ (ready 3).par.hsEventSet ∧ 180000 ≤ (180000#32).toInt ∧
      (-180000#32).toInt ≤ -180000 ∧ (halfRate (conv 3) .adc 0 0 : Int) < 4 * 2000000001 := by decide

theorem witness_NormaliseFollowsLoops : (-9 : Int) < -((8 : Nat) : Int) ∧ ((8 : Nat) : Int) < 9 ∧ -((8 : Nat) : Int) ≤ 8 := by decide

/-- E/2 = 2 GHz: uncompensated +E/2 (x = h), compensated 0 (x = -h) and +E/2 (x = 0), and a negative frequency, adjusted, in either zone. -/
theorem witness_FrequencyWordRange :
    4 * |(2000000000#64).toInt| ≤ ((8000000000 : Nat) : Int) ∧ 4 * (2000000000#64).toInt = ((8000000000 : Nat) : Int) ∧
      -((8000000000 : Nat) : Int) ≤ 4 * (0#64).toInt - (8000000000 : Nat) ∧
      -((8000000000 : Nat) : Int) ≤ 4 * (2000000000#64).toInt - (8000000000 : Nat) ∧
      4 * |(-1#64).toInt| ≤ ((8000000000 : Nat) : Int) ∧
      4 * (-1#64).toInt - (8000000000 : Nat) < -((8000000000 : Nat) : Int) := by decide

theorem witness_FrequencyRoundTrip :
    0 < 8000000000 ∧ 8000000000 < 2 ^ 48 ∧ 4 * |(2000000000#64).toInt| ≤ ((8000000000 : Nat) : Int) ∧
      4 * (2000000000#64).toInt = ((8000000000 : Nat) : Int) := by decide

theorem witness_PhaseWordWithinOneLsb : -180000 < (-179999#32).toInt ∧ (179999#32).toInt < 180000 := by decide

/-- The event and scale fields of a block with a legal and with a reserved code. -/
theorem witness_GetMixerPosts_codes :
    ((fieldValue (.blk .mixEvt .dac 0 0) { ready 3 with conv := [(FieldAddr.key (.blk .mixEvt .dac 0 0), 4)] }).extractLsb' 0 3).toNat ≤ 4 ∧
      5 ≤ ((fieldValue (.blk .mixEvt .dac 0 0) { ready 3 with conv := [(FieldAddr.key (.blk .mixEvt .dac 0 0), 5)] }).extractLsb' 0 3).toNat ∧
      (fieldValue (.blk .mixScale .dac 0 0) { ready 3 with conv := [(FieldAddr.key (.blk .mixScale .dac 0 0), 2)] }).extractLsb' 0 2 ≠ 3 ∧
      (fieldValue (.blk .mixScale .dac 0 0) { ready 3 with conv := [(FieldAddr.key (.blk .mixScale .dac 0 0), 3)] }).extractLsb' 0 2 = 3 := by
  decide

theorem witness_GetMixerPosts :
    (ready 3).inp.tileOn .dac 0 = true ∧ (ready 3).inp.blockOn .dac 0 0 = true ∧ (ready 3).inp.pathOn .dac 0 0 = true ∧
      mixerDec par 2 0x65 false false = some (.coarse, .c2c, .fs2) ∧ mixerDec par 5 0x01 false false = none := by decide

theorem witness_MixerRoundTrip_table : DefaultMixerTable (mixing (convCal 2) 0x25 0).par := ⟨rfl, rfl, rfl, rfl, rfl⟩

theorem witness_MixerRoundTrip :
    (∃ t, exec (.setMixer .adc 0 0) (mixing (convCal 2) 0x25 0) = .next t ∧ t.status.err = 0) ∧ 0 < halfRate (convCal 2) .adc 0 0 ∧
      halfRate (convCal 2) .adc 0 0 < 2 ^ 48 ∧
      settingsOf (mixing (convCal 2) 0x25 0).argL.arg2 =
        some { type := .coarse, mode := .c2c, sel := .bypass, evt := .immediate, scale := .auto } := ⟨⟨_, rfl, by decide⟩, by decide⟩

/-- The state SET_MIXER left, as the later state. -/
theorem witness_MixerRoundTrip_later :
    ∃ t d, exec (.setMixer .adc 0 0) (mixing (convCal 2) 0x25 0) = .next t ∧ t.inst = some d ∧ t.inp = inp ∧ t.par = par ∧
      d.gen = (convCal 2).gen ∧ (d.tileAt .adc 0).fs = ((convCal 2).tileAt .adc 0).fs ∧ d.anaAt .adc 0 0 = (convCal 2).anaAt .adc 0 0 ∧
      Memory.wf (mixing (convCal 2) 0x25 0).conv = true :=
  ⟨_, _, rfl, rfl, rfl, rfl, by decide, by decide, by decide, by decide⟩

theorem witness_ScenarioACoarseFsHalf :
    (mixing (conv 3) 0x45 0).argL = { arg0L := 0, arg0H := 0, arg1 := 0, arg2 := 0x00000045 } ∧ (mixing (conv 3) 0x45 0).inst = some (conv 3) ∧
      inp.tileOn .adc 0 = true ∧ inp.blockOn .adc 0 0 = true ∧ inp.pathOn .adc 0 0 = true ∧ inp.hs .adc 0 = false ∧ 3 ≤ (conv 3).gen ∧
      ((conv 3).tileAt .adc 0).fs = 4000000000 ∧ ((conv 3).tileAt .adc 0).mb = .single := by decide

theorem witness_SetNyquistWritesZone :
    (ready 2).inst = some (conv 2) ∧ (2#3).toNat = (2 : Fin 4).val ∧ (ready 2).inp.tileOn .adc 2 = true ∧
      (ready 2).inp.blockOn .adc 2 0 = true ∧ (ready 2).inp.pathOn .adc 2 0 = true ∧ Memory.wf (ready 2).conv = true := by decide

theorem witness_GetNyquistPosts :
    (busy (some (convCal 2)) 0 .exec noArgs).inst = some (convCal 2) ∧ ((convCal 2).anaAt .adc 2 0).cal = .mode1 ∧
      (convCal 2).gen ∈ par.zoneFlipGens := by decide

theorem witness_ScenarioCZoneFlip :
    (busy (some (convCal 2)) 0x42200001 .exec noArgs).par.zoneFlipGens = [1, 2] ∧ (convCal 2).gen = 2 ∧ inp.hs .adc 2 = true ∧
      ((convCal 2).anaAt .adc 2 0).cal = .mode1 ∧ inp.tileOn .adc 2 = true ∧ inp.blockOn .adc 2 0 = true ∧
      inp.pathOn .adc 2 0 = true := by decide

theorem witness_RestartDecodeErrors :
    (busy none 0x1000010F .rSelect noArgs).inst = none ∧ (busy (some (conv 3)) 0x1040010F .rSelect noArgs).inst ≠ none := by decide

theorem witness_WalkSelectsAndChecks :
    (walking .rSelect).inst = some (convCal 3) ∧ (walking .rSelect).timer = false ∧ (walking .rSelect).seq = .rSelect ∧
      (walking .rSelect).idx ≤ (walking .rSelect).lastIdx ∧
      { walking .rSelect with idx := 1 }.lastIdx < { walking .rSelect with idx := 1 }.idx ∧ (walking .rCheck).inp.tileOn .adc 0 = true ∧
      (walking .rCheck).inp.tileOn .adc 3 = false ∧ (walking .rCheck).idx = (0 : Fin 4).val := by decide

theorem witness_WalkWritesRestartState :
    Memory.wf (walking .rWrite).conv = true ∧ (walking .rWrite).inst = some (convCal 3) ∧ (walking .rWrite).seq = .rWrite ∧
      (walking .rWrite).inp.hs .adc 1 = true ∧ 3 ≤ (convCal 3).gen := by decide

theorem witness_WalkTriggers :
    ((convCal 3).tileAt .adc 0).clkSrc = .internalPll ∧ { walking .rTrigger with endEff := 15 }.endEff = 15 ∧
      ((convCal 3).tileAt .adc 1).clkSrc = .external ∧ (walking .rTrigger).endEff ≠ 15 := by decide

theorem witness_LockPollSample :
    nextAnswer { walking .rLock with tileIn := [true] } = true ∧ nextAnswer { walking .rLock with tileIn := [false] } = false ∧
      { walking .rLock with retry := 2 }.retry = (walking .rLock).par.lockMaxRetries ∧ (walking .rLock).timer = false := by decide

theorem witness_ClearPollSample :
    nextAnswer { walking .rClear with tileIn := [false] } = false ∧ nextAnswer { walking .rClear with tileIn := [true] } = true ∧
      { walking .rClear with retry := 3 }.retry = (walking .rClear).par.clrMaxRetries := by decide

theorem witness_WalkWaitsAndPosts :
    { walking .rLock with timer := true }.timer = true ∧ (walking .posting).timer = false ∧ (walking .posting).seq = .posting := by decide

theorem witness_RestartFrame : ∃ t, exec (.restart .adc 0 1 15) (walking .rWrite) = .next t ∧ Memory.wf (walking .rWrite).conv = true :=
  ⟨_, rfl, rfl⟩

theorem witness_StartupWorkedExample :
    (walking .rSelect).hostIn = [] ∧ (walking .rSelect).seq = .rSelect ∧ (walking .rSelect).timer = false ∧ (walking .rSelect).idx = 0 ∧
      (walking .rSelect).lastIdx = 0 ∧ (walking .rSelect).cmdL = 0x1000010F ∧ (walking .rSelect).inp.tileOn .adc 0 = true ∧
      ((convCal 3).tileAt .adc 0).clkSrc = .internalPll ∧ 2 ≤ (walking .rSelect).par.lockMaxRetries ∧
      2 ≤ (walking .rSelect).par.clrMaxRetries ∧
      { walking .rSelect with tileIn := [false, false, true, true, false] }.tileIn = [false, false, true, true, false] ++ [] := by decide

end Sys2Proof.Tests
end

section
/-! PROOFS. The logical-to-physical block map (10_state.md section 5, R36). -/

namespace Sys2Proof.Machine

section BlockMap

variable {i : Inputs} {c : Converter} {k : Kind} {t b : Fin 4}

theorem iqPaired_iff_connQ_ne_none : iqPaired c k t b = true ↔ (c.blkAt k t b).connQ ≠ none :=
  Option.isSome_iff_ne_none

/-- R36's first row: a standard tile has no aliases. -/
theorem phys_of_standard (hstd : i.hs k t = false) : phys i c k t b = b :=
  if_pos hstd

/-- R36's second row, which needs no tile class: no tile redirects an even block. -/
theorem phys_of_even (heven : b.val % 2 = 0) : phys i c k t b = b := by
  unfold phys
  rw [if_pos heven, ite_self]

/-- R36's third row, which needs neither class nor parity: no tile redirects an IQ-paired block. -/
theorem phys_of_iqPaired (hpair : iqPaired c k t b = true) : phys i c k t b = b := by
  unfold phys
  rw [if_pos hpair, ite_self, ite_self]

/-- R36's last row, the one redirection. -/
theorem phys_of_unpaired_odd (hhs : i.hs k t = true) (hodd : b.val % 2 = 1) (hpair : iqPaired c k t b = false) :
    phys i c k t b = 2 := by
  simp [phys, hhs, hodd, hpair]

end BlockMap

/-- Settles O30, one row of R36 for each clause. -/
theorem physicalBlockMap : Obligations.PhysicalBlockMap := by
  intro i c k t b
  refine ⟨phys_of_standard, fun _ heven => ?even, fun _ _ hpair => ?paired, fun hhs hodd hnone => ?unpaired⟩
  case even =>
    have : b.val % 2 = 0 := by rcases heven with rfl | rfl <;> rfl
    exact phys_of_even this
  case paired => exact phys_of_iqPaired (iqPaired_iff_connQ_ne_none.mpr hpair)
  case unpaired =>
    have hb : b.val % 2 = 1 := by rcases hodd with rfl | rfl <;> rfl
    have hunpaired : iqPaired c k t b = false :=
      Bool.eq_false_iff.mpr fun hpair => iqPaired_iff_connQ_ne_none.mp hpair hnone
    exact phys_of_unpaired_odd hhs hb hunpaired

end Sys2Proof.Machine
end

section
/-! PROOFS. The command word's decoder and encoder (30_encoding.md). -/

namespace Sys2Proof

/-- A word with an opcode's byte and no reserved bit set is that opcode's command with the word's fields (R94 to R96). -/
theorem decode_eq_ok_build {w : Word} {op : Opcode} (hcode : bits w 24 8 = op.code) (hzero : w &&& op.reservedZeroMask = 0) :
    decode w = .ok (build op w) := by
  simp [decode, hcode, Laws.ofCode_code, hzero]

/-- The decoder reads a command back from its word as soon as the word's reserved bits are 0 and its fields are the command's. -/
theorem decode_of_encode_eq {i : Instr} {w : Word} (hword : encode i = w) (hzero : w &&& i.opcode.reservedZeroMask = 0)
    (hfields : build i.opcode w = i) : decode w = .ok i := by
  have hcode : bits w 24 8 = i.opcode.code := hword ▸ (Laws.encodesOpcode i).1
  rw [decode_eq_ok_build hcode hzero, hfields]

/-- Settles O3: each of R103's words is the command's encoding, its reserved bits are 0 and its fields are the command's. -/
theorem workedEncodings : Obligations.WorkedEncodings := by
  refine ⟨?startupAdc, ?startupDacAll, ?shutdownAdc, ?resetDac, ?setRateLive, ?setRateObs, ?setMixer, ?setNyquist, ?resolvePair⟩ <;>
    exact ⟨decode_of_encode_eq rfl rfl rfl, rfl⟩

end Sys2Proof
end

section
/-! PROOFS. The power sequencer's write of the restart states (41_power_sequencer.md, R112, R114, R117). -/

namespace Sys2Proof.Machine

/-- A 4-bit state fits the 8-bit restart-state fields, so a write of it is not cut. -/
theorem lowBits_eight_setWidth (x : BitVec 4) : lowBits 8 (x.setWidth 32) = x.setWidth 32 := by
  have hx : x.toNat < 2 ^ 4 := x.isLt
  apply BitVec.eq_of_toNat_eq
  simp only [lowBits, BitVec.toNat_ofNat, BitVec.toNat_setWidth]
  omega

theorem portWrite_wf {s : State} (a : FieldAddr) (v : Word) (hwf : Memory.wf s.conv = true) :
    Memory.wf (portWrite a v s).conv = true :=
  writtenConv_wf a v hwf

section RestartStateAccess

variable (k : Kind) (n : Fin 4) (x y : BitVec 4)

/-- The one access leaves in the fields what a write of the start field and then one of the end field would (R117). -/
theorem fieldValue_portWriteRestartState (a : FieldAddr) (s : State) :
    fieldValue a (portWriteRestartState k n x y s) =
      fieldValue a (portWrite (.tile .restartEnd k n) (y.setWidth 32) (portWrite (.tile .restartStart k n) (x.setWidth 32) s)) :=
  fieldValue_congr a rfl rfl

theorem fieldValue_restartEnd_portWriteRestartState (s : State) :
    fieldValue (.tile .restartEnd k n) (portWriteRestartState k n x y s) = y.setWidth 32 := by
  rw [fieldValue_portWriteRestartState, fieldValue_portWrite_same _ _ _ rfl]
  exact lowBits_eight_setWidth y

variable {s : State} (hwf : Memory.wf s.conv = true)
include hwf

theorem fieldValue_restartStart_portWriteRestartState :
    fieldValue (.tile .restartStart k n) (portWriteRestartState k n x y s) = x.setWidth 32 := by
  rw [fieldValue_portWriteRestartState, fieldValue_portWrite_other _ _ (portWrite_wf _ _ hwf) (by simp),
    fieldValue_portWrite_same _ _ _ rfl]
  exact lowBits_eight_setWidth x

theorem fieldsKept_portWriteRestartState :
    FieldsKept (fun a => a = .tile .restartStart k n ∨ a = .tile .restartEnd k n) s (portWriteRestartState k n x y s) := by
  intro a huntouched
  obtain ⟨hstart, hend⟩ := not_or.mp huntouched
  rw [fieldValue_portWriteRestartState, fieldValue_portWrite_other _ _ (portWrite_wf _ _ hwf) hend,
    fieldValue_portWrite_other _ _ hwf hstart]

end RestartStateAccess

/-- RESTART's selector check passes for one tile and for "all" (R82, R94). -/
theorem restartSelectorOk_of {tl : BitVec 3} (htl : tl.toNat < 4 ∨ tl = 7) : restartSelectorOk tl = true := by
  rcases htl with hone | rfl
  · simp [restartSelectorOk, tileOf_of_lt hone]
  · rfl

/-- Past its decode checks RESTART takes one step of the walk (R110). -/
theorem exec_restart_of {tl : BitVec 3} {s : State} {c : Converter} (k : Kind) (x y : BitVec 4) (hc : s.inst = some c)
    (htl : tl.toNat < 4 ∨ tl = 7) : exec (.restart k tl x y) s = walkStep k tl x y c s := by
  change execRestart k tl x y s = _
  simp [execRestart, hc, restartSelectorOk_of htl]

theorem walkStep_of_rWrite {s : State} {n : Fin 4} (k : Kind) (tl : BitVec 3) (x y : BitVec 4) (c : Converter)
    (htimer : s.timer = false) (hseq : s.seq = .rWrite) (hidx : s.idx = n.val) :
    walkStep k tl x y c s = .next (walkWrite k x y c n s) := by
  simp [walkStep, htimer, hseq, atTile_of _ hidx]

/-- R114's two cases determine the end state in use. -/
theorem downgrade_eq_of {i : Inputs} {c : Converter} {k : Kind} {n : Fin 4} {y e : BitVec 4}
    (hdown : k = .adc ∧ i.hs .adc n = true ∧ 3 ≤ c.gen ∧ y = 1 → e = 3)
    (hkeep : ¬(k = .adc ∧ i.hs .adc n = true ∧ 3 ≤ c.gen ∧ y = 1) → e = y) : downgrade i c k n y = e := by
  unfold downgrade
  split
  case isTrue h => exact (hdown h).symm
  case isFalse h => exact (hkeep h).symm

/-- Settles O53: the step is `walkWrite` with R114's end state, and its one access writes the two fields of the tile. -/
theorem walkWritesRestartState : Obligations.WalkWritesRestartState := by
  intro k tl x y e n s c hwf hc htl htimer hseq hidx hdown hkeep
  have hdowngrade : downgrade s.inp c k n y = e := downgrade_eq_of hdown hkeep
  have hvalue (a : FieldAddr) :
      fieldValue a { s with conv := (portWriteRestartState k n x e s).conv } = fieldValue a (portWriteRestartState k n x e s) :=
    fieldValue_congr a rfl rfl
  refine ⟨(portWriteRestartState k n x e s).conv, ?step, ?start, ?stop, ?frame⟩
  case step =>
    rw [exec_restart_of k x y hc htl, walkStep_of_rWrite k tl x y c htimer hseq hidx, walkWrite, hdowngrade]
    rfl
  case start => rw [hvalue, fieldValue_restartStart_portWriteRestartState k n x e hwf]
  case stop => rw [hvalue, fieldValue_restartEnd_portWriteRestartState k n x e s]
  case frame =>
    intro a huntouched
    rw [hvalue, fieldsKept_portWriteRestartState k n x e hwf a huntouched]

end Sys2Proof.Machine
end

section
/-! PROOFS. The pairing resolver's table and its members (42_pairing.md, R143, R147, R148). -/

namespace Sys2Proof.Machine

section PairFunction

theorem groupFirst_eq_zero_or_two (b : Fin 4) : groupFirst b = 0 ∨ groupFirst b = 2 := by
  unfold groupFirst
  split
  · exact .inl rfl
  · exact .inr rfl

/-- A group's second block exists, so the successor in `Fin 4` does not wrap. -/
theorem groupFirst_lt_succ (b : Fin 4) : groupFirst b < groupFirst b + 1 := by
  rcases groupFirst_eq_zero_or_two b with h | h <;> rw [h] <;> decide

/-- The pair of a block's own group, by the group's number as R143 writes it. -/
theorem groupPair_eq (b : Fin 4) :
    (some (groupFirst b), some (groupFirst b + 1)) = if b.val < 2 then (some (0 : Fin 4), some (1 : Fin 4)) else (some 2, some 3) := by
  unfold groupFirst
  split <;> rfl

/-- A REAL block has an I member alone: the block itself in single band, the first block of a group in multiband. -/
theorem pair_real (mb : MultiBand) (b : Fin 4) (sl : Nat) :
    ∃ i, pair .real mb b sl = (some i, none) ∧ (mb ≠ .single → i = 0 ∨ i = 2) ∧ (mb = .single → i = b) := by
  cases mb with
  | single => exact ⟨b, rfl, fun hmulti => absurd rfl hmulti, fun _ => rfl⟩
  | mb2x => exact ⟨groupFirst b, rfl, fun _ => groupFirst_eq_zero_or_two b, nofun⟩
  | mb4x => exact ⟨0, rfl, fun _ => .inl rfl, nofun⟩

/-- An IQ block has both members, the I member first. -/
theorem pair_iq (mb : MultiBand) (b : Fin 4) (sl : Nat) :
    ∃ i q, pair .iq mb b sl = (some i, some q) ∧ (i = 0 ∨ i = 2) ∧ i < q := by
  cases mb with
  | single | mb2x => exact ⟨_, _, rfl, groupFirst_eq_zero_or_two b, groupFirst_lt_succ b⟩
  | mb4x =>
    by_cases hsl : sl = 4
    · exact ⟨0, 1, by simp [pair, hsl], .inl rfl, by decide⟩
    · exact ⟨0, 2, by simp [pair, hsl], .inl rfl, by decide⟩

end PairFunction

/-- Settles O26: every row is the function's own but the two of IQ in a block's group, which `groupPair_eq` writes out. -/
theorem pairTable : Obligations.PairTable := by
  intro b _
  exact ⟨rfl, rfl, rfl, groupPair_eq b, groupPair_eq b, rfl, rfl⟩

/-- Settles O27, by category: `pair_real` and `pair_iq` give the members. -/
theorem pairMembers : Obligations.PairMembers := by
  intro cat mb b sl _
  cases cat with
  | real =>
    obtain ⟨i, hpair, hmulti, hsingle⟩ := pair_real mb b sl
    rw [hpair]
    exact ⟨iff_of_true rfl rfl, i, rfl, fun hcase => hmulti (hcase.resolve_left nofun), fun _ => hsingle, nofun⟩
  | iq =>
    obtain ⟨i, q, hpair, heven, hlt⟩ := pair_iq mb b sl
    rw [hpair]
    refine ⟨iff_of_false nofun nofun, i, rfl, fun _ => heven, nofun, ?_⟩
    rintro _ ⟨⟩
    exact ⟨hlt, Nat.one_le_iff_ne_zero.mpr (Nat.ne_zero_of_lt hlt)⟩

end Sys2Proof.Machine
end

section
/-! PROOFS. The rate-factor engine's functions: the codes and the FIFO-width table (43_rate_fifo.md, R160, R161, R169). -/

namespace Sys2Proof.Machine

section FactorCode

variable {f g : Nat}

theorem legalFactor_iff : legalFactor f g = true ↔ f ∈ factors ∧ (3 ≤ g ∨ f ∈ [0, 1, 2, 4, 8]) := by
  simp only [legalFactor, Bool.and_eq_true, Bool.or_eq_true, List.contains_iff_mem, decide_eq_true_eq]

theorem factorCode_of_modern (hg : 3 ≤ g) : factorCode f g = f :=
  if_pos hg

/-- R161's remapping of 4 and 8 goes down, so no code is above its factor. -/
theorem factorCode_le : factorCode f g ≤ f := by
  unfold factorCode
  split_ifs <;> omega

theorem le_forty_of_mem_factors : ∀ f ∈ factors, f ≤ 40 := by decide

/-- A legal factor's code fits the 6-bit field `RATE_CFG.FACTOR`. -/
theorem factorCode_lt_of_legal (hlegal : legalFactor f g = true) : factorCode f g < 2 ^ 6 := by
  have := le_forty_of_mem_factors f (legalFactor_iff.mp hlegal).1
  have : factorCode f g ≤ f := factorCode_le
  omega

theorem factorDecode_of_modern (hg : 3 ≤ g) : factorDecode f g = if f ∈ factors then some f else none := by
  simp [factorDecode, hg]

/-- R161's legacy table, one clause for each of the five factors that have a legacy code. -/
theorem factorCode_of_legacy (hg : g < 3) :
    factorCode 0 g = 0 ∧ factorCode 1 g = 1 ∧ factorCode 2 g = 2 ∧ factorCode 4 g = 3 ∧ factorCode 8 g = 4 := by
  simp [factorCode, Nat.not_le.mpr hg]

/-- The legacy codes are 0 to 4. -/
theorem factorDecode_of_legacy_gt {c : Nat} (hg : g < 3) (hc : 4 < c) : factorDecode c g = none := by
  unfold factorDecode
  rw [if_neg (by omega), if_neg (by omega), if_neg (by omega), if_neg (by omega)]

theorem factorDecode_factorCode (hlegal : legalFactor f g = true) : factorDecode (factorCode f g) g = some f := by
  obtain ⟨hmem, hgen⟩ := legalFactor_iff.mp hlegal
  by_cases hg : 3 ≤ g
  case pos => rw [factorCode_of_modern hg, factorDecode_of_modern hg, if_pos hmem]
  case neg =>
    have hlegacy : f = 0 ∨ f = 1 ∨ f = 2 ∨ f = 4 ∨ f = 8 := by simpa using hgen.resolve_left hg
    rcases hlegacy with rfl | rfl | rfl | rfl | rfl <;> simp [factorCode, factorDecode, hg]

end FactorCode

/-- Settles O33, by generation: from 3 on the code is the factor, before it the five legacy codes. -/
theorem factorCodes : Obligations.FactorCodes := by
  refine ⟨fun f g => factorCode_of_modern, fun g => factorCode_of_legacy, fun f g => factorDecode_factorCode, ?modern,
    fun c g => factorDecode_of_legacy_gt⟩
  intro c g hg hc
  rw [factorDecode_of_modern hg, if_neg hc]

section FifoWidth

variable {par : Params} {f : Nat} {dt : Category} {hs : Bool}

theorem fifoWidth_off : fifoWidth par 0 dt hs = 0 :=
  if_pos rfl

theorem fifoWidth_of_iqHs (hf : f ≠ 0) (hcol : dt = .iq ∨ hs = true) : fifoWidth par f dt hs = fabricRateIqHs f hs := by
  rw [fifoWidth, if_neg hf, if_pos hcol]

theorem fifoWidth_of_real (hf : f ≠ 0) (hdt : dt = .real) (hhs : hs = false) : fifoWidth par f dt hs = fabricRateReal par f := by
  simp [fifoWidth, hf, hdt, hhs]

/-- R169's rows of the IQ-or-high-speed column; OFF has none. -/
theorem fabricRateIqHs_eq (hf : f ≠ 0) :
    fabricRateIqHs f hs =
      if f = 1 then 8 else if f = 2 ∨ f = 3 then 4 else if f = 4 ∨ f = 5 ∨ f = 6 then 2 else if hs = true then 2 else 1 := by
  unfold fabricRateIqHs
  split_ifs <;> omega

/-- R169's rows of the default plain-real column; OFF has none. -/
theorem fabricRateRealDefault_eq (hf : f ≠ 0) :
    fabricRateRealDefault f = if f = 1 then 4 else if f = 2 ∨ f = 3 then 2 else 1 := by
  unfold fabricRateRealDefault
  split_ifs <;> omega

theorem fabricRateReal_of_no_row (hrows : ∀ r ∈ par.fabricReal, r.1 ≠ f) : fabricRateReal par f = fabricRateRealDefault f := by
  have hnone : par.fabricReal.find? (fun r => r.1 == f) = none := by
    simpa using hrows
  rw [fabricRateReal, hnone]

/-- The implementation's first row for the factor decides (log entry 1). -/
theorem fabricRateReal_of_first_row {before after : List (Nat × Nat)} {w : Nat} (hrows : par.fabricReal = before ++ (f, w) :: after)
    (hbefore : ∀ r ∈ before, r.1 ≠ f) : fabricRateReal par f = w := by
  have hskip : before.find? (fun r => r.1 == f) = none := by
    simpa using hbefore
  have hfind : par.fabricReal.find? (fun r => r.1 == f) = some (f, w) := by
    rw [hrows, List.find?_append, hskip, Option.none_or, List.find?_cons_of_pos (by simp)]
  rw [fabricRateReal, hfind]

theorem fabricRateIqHs_le : fabricRateIqHs f hs ≤ 8 := by
  unfold fabricRateIqHs
  split_ifs <;> omega

theorem fabricRateRealDefault_le : fabricRateRealDefault f ≤ 4 := by
  unfold fabricRateRealDefault
  split_ifs <;> omega

/-- R172 bounds the implementation's rows. -/
theorem fabricRateReal_le (hpar : ParamsOk par) : fabricRateReal par f ≤ 8 := by
  unfold fabricRateReal
  split
  case h_1 r hfind =>
    have := hpar.fabricReal r (List.mem_of_find?_eq_some hfind)
    omega
  case h_2 => exact fabricRateRealDefault_le.trans (by decide)

/-- Every width fits the 4-bit field `FABRIC_RATE`. -/
theorem fifoWidth_lt (hpar : ParamsOk par) : fifoWidth par f dt hs < 2 ^ 4 := by
  have hiq : fabricRateIqHs f hs ≤ 8 := fabricRateIqHs_le
  have hreal : fabricRateReal par f ≤ 8 := fabricRateReal_le hpar
  unfold fifoWidth
  split
  · decide
  · split <;> omega

end FifoWidth

end Sys2Proof.Machine
end

section
/-! PROOFS. Writes over a span, the recomputation of the FIFO width, and what a successful SET_RATE leaves (43_rate_fifo.md,
R164, R168, R178). -/

namespace Sys2Proof.Machine

/-- A value that fits is not cut. -/
theorem lowBits_ofNat_of_lt {n x : Nat} (hx : x < 2 ^ n) : lowBits n (BitVec.ofNat 32 x) = BitVec.ofNat 32 x := by
  have hfits : (BitVec.ofNat 32 x).toNat < 2 ^ n := by
    rw [BitVec.toNat_ofNat]
    exact (Nat.mod_le _ _).trans_lt hx
  rw [lowBits, Nat.mod_eq_of_lt hfits, BitVec.ofNat_toNat, BitVec.setWidth_eq]

section Port

@[simp] theorem portWrites_par (ws : List (FieldAddr × Word)) (s : State) : (portWrites ws s).par = s.par := by
  rw [portWrites_eq]

@[simp] theorem portWrites_inp (ws : List (FieldAddr × Word)) (s : State) : (portWrites ws s).inp = s.inp := by
  rw [portWrites_eq]

theorem portWrites_wf {s : State} (ws : List (FieldAddr × Word)) (hwf : Memory.wf s.conv = true) :
    Memory.wf (portWrites ws s).conv = true := by
  rw [portWrites_eq]
  exact writtenAll_wf ws hwf

@[simp] theorem portReads_par (as : List FieldAddr) (s : State) : (portReads as s).par = s.par := by
  rw [portReads_eq]

@[simp] theorem portReads_conv (as : List FieldAddr) (s : State) : (portReads as s).conv = s.conv := by
  rw [portReads_eq]

@[simp] theorem fieldValue_portReads (as : List FieldAddr) (a : FieldAddr) (s : State) :
    fieldValue a (portReads as s) = fieldValue a s :=
  fieldValue_congr a (by rw [portReads_conv]) (portReads_par as s)

@[simp] theorem fieldValue_postOk (a : FieldAddr) (s : State) : fieldValue a (postOk s) = fieldValue a s :=
  fieldValue_congr a rfl rfl

@[simp] theorem fieldValue_withInst (a : FieldAddr) (x : Option Converter) (s : State) :
    fieldValue a { s with inst := x } = fieldValue a s :=
  fieldValue_congr a rfl rfl

variable {f : BlockField} {v : Word} {k : Kind} {t : Fin 4} {s : State}

/-- Writes over a span leave alone what is not the field's copy at one of its blocks. -/
theorem fieldValue_spanWrites_other {a : FieldAddr} {ps : List (Fin 4)} (hwf : Memory.wf s.conv = true)
    (ha : ∀ p ∈ ps, a ≠ .blk f k t p) : fieldValue a (portWrites (spanWrites f v k t ps) s) = fieldValue a s := by
  apply fieldValue_portWrites_other _ _ _ hwf
  intro w hw
  obtain ⟨p, hp, rfl⟩ := List.mem_map.mp hw
  exact ha p hp

/-- Writes over a span leave the one value at each of its blocks, whichever of them the last one is. -/
theorem fieldValue_spanWrites_mem {q : Fin 4} (ps : List (Fin 4)) (hwf : Memory.wf s.conv = true)
    (hheld : (FieldAddr.blk f k t q).notHeld = false) (hq : q ∈ ps) :
    fieldValue (.blk f k t q) (portWrites (spanWrites f v k t ps) s) = lowBits ((FieldAddr.blk f k t q).width s.par) v := by
  induction ps generalizing s with
  | nil => cases hq
  | cons p rest ih =>
    change fieldValue _ (portWrites (spanWrites f v k t rest) (portWrite (.blk f k t p) v s)) = _
    have hwf' : Memory.wf (portWrite (.blk f k t p) v s).conv = true := portWrite_wf _ _ hwf
    by_cases hrest : q ∈ rest
    case pos => exact ih hwf' hrest
    case neg =>
      obtain rfl : q = p := (List.mem_cons.mp hq).resolve_right hrest
      rw [fieldValue_spanWrites_other hwf' (by grind), fieldValue_portWrite_same _ _ _ hheld]

end Port

/-- The span of a write reaches the physical block itself. -/
theorem phys_mem_span (i : Inputs) (c : Converter) (k : Kind) (t b : Fin 4) : phys i c k t b ∈ span i c k t b := by
  simp only [span]
  split
  · exact List.mem_singleton_self _
  · split <;> exact List.mem_cons_self

section Recompute

variable {c : Converter} {k : Kind} {t b : Fin 4} {ch : Channel} {s : State}

theorem fifoRecompute_wf (hwf : Memory.wf s.conv = true) : Memory.wf (fifoRecompute c k t b ch s).conv = true :=
  portWrites_wf _ (by rwa [portReads_conv])

/-- With a code that decodes the recomputation is two reads and the width over the span (R168). -/
theorem fifoRecompute_of_decode {f : Nat}
    (hcode : factorDecode (fieldValue (.blk (.rateFactor ch) k t (phys s.inp c k t b)) s).toNat c.gen = some f) :
    fifoRecompute c k t b ch s =
      portWrites
        (spanWrites (.fabricRate ch)
          (BitVec.ofNat 32 (fifoWidth s.par f (dtypeOf (fieldValue (.blk .rateDtype k t (phys s.inp c k t b)) s)) (s.inp.hs k t)))
          k t (span s.inp c k t b))
        (portReads (recomputeReads c k t b ch s) s) := by
  simp only [fifoRecompute, recomputeWrites, recomputedWidth, hcode]

theorem fieldValue_rateDtype_fifoRecompute (p : Fin 4) (hwf : Memory.wf s.conv = true) :
    fieldValue (.blk .rateDtype k t p) (fifoRecompute c k t b ch s) = fieldValue (.blk .rateDtype k t p) s := by
  unfold fifoRecompute recomputeWrites
  split
  · exact fieldValue_portReads _ _ s
  · rw [fieldValue_spanWrites_other (by rwa [portReads_conv]) (by simp), fieldValue_portReads]

end Recompute

section SetRate

variable {k : Kind} {t b : Fin 4} {ch : Channel} {s : State} {c : Converter}

/-- The clock gating writes the two `CG` fields only (R173). -/
theorem fieldValue_cgWrites_other {a : FieldAddr} {g f : Nat} {par : Params} {ps : List (Fin 4)} (hwf : Memory.wf s.conv = true)
    (hdelay : ∀ p ∈ ps, a ≠ .blk .cgDelay k t p) (hsync : ∀ p ∈ ps, a ≠ .blk .cgSyncEn k t p) :
    fieldValue a (portWrites (cgWrites par g f k t ps) s) = fieldValue a s := by
  apply fieldValue_portWrites_other _ _ _ hwf
  intro w hw
  unfold cgWrites at hw
  split at hw
  case isTrue =>
    rcases List.mem_append.mp hw with hw | hw
    · obtain ⟨p, hp, rfl⟩ := List.mem_map.mp hw
      exact hdelay p hp
    · obtain ⟨p, hp, rfl⟩ := List.mem_map.mp hw
      exact hsync p hp
  case isFalse => cases hw

/-- The state SET_RATE recomputes the FIFO width from: the factor code written over the span and the factor persisted (R164). -/
def factorWritten (k : Kind) (t b : Fin 4) (ch : Channel) (f : Nat) (c : Converter) (s : State) : State :=
  { portWrites (spanWrites (.rateFactor ch) (BitVec.ofNat 32 (factorCode f c.gen)) k t (span s.inp c k t b)) s with
    inst := some (c.setBlk k t b ((c.blkAt k t b).setRate ch f)) }

theorem setRateEffect_eq (f : Nat) :
    setRateEffect k t b ch f c s =
      portWrites (cgWrites s.par c.gen f k t (span s.inp c k t b)) (fifoRecompute c k t b ch (factorWritten k t b ch f c s)) :=
  rfl

@[simp] theorem factorWritten_inp (f : Nat) : (factorWritten k t b ch f c s).inp = s.inp :=
  portWrites_inp _ s

@[simp] theorem factorWritten_par (f : Nat) : (factorWritten k t b ch f c s).par = s.par :=
  portWrites_par _ s

variable {f : Nat} (hwf : Memory.wf s.conv = true)
include hwf

theorem factorWritten_wf : Memory.wf (factorWritten k t b ch f c s).conv = true :=
  portWrites_wf _ hwf

theorem fieldValue_rateDtype_factorWritten (p : Fin 4) :
    fieldValue (.blk .rateDtype k t p) (factorWritten k t b ch f c s) = fieldValue (.blk .rateDtype k t p) s := by
  rw [factorWritten, fieldValue_withInst, fieldValue_spanWrites_other hwf (by simp)]

/-- The recomputation reads back the factor just written: its code fits the field and decodes to it (R161, R168). -/
theorem factorDecode_factorWritten (hlegal : legalFactor f c.gen = true) :
    factorDecode (fieldValue (.blk (.rateFactor ch) k t (phys s.inp c k t b)) (factorWritten k t b ch f c s)).toNat c.gen =
      some f := by
  have hfits : factorCode f c.gen < 2 ^ 6 := factorCode_lt_of_legal hlegal
  have hread : fieldValue (.blk (.rateFactor ch) k t (phys s.inp c k t b)) (factorWritten k t b ch f c s) =
      BitVec.ofNat 32 (factorCode f c.gen) := by
    rw [factorWritten, fieldValue_withInst, fieldValue_spanWrites_mem _ hwf rfl (phys_mem_span ..)]
    exact lowBits_ofNat_of_lt hfits
  rw [hread, BitVec.toNat_ofNat, Nat.mod_eq_of_lt (hfits.trans (by decide)), factorDecode_factorCode hlegal]

/-- No write of SET_RATE is to the data type (R167). -/
theorem fieldValue_rateDtype_setRateEffect (p : Fin 4) :
    fieldValue (.blk .rateDtype k t p) (setRateEffect k t b ch f c s) = fieldValue (.blk .rateDtype k t p) s := by
  rw [setRateEffect_eq, fieldValue_cgWrites_other (fifoRecompute_wf (factorWritten_wf hwf)) (by simp) (by simp),
    fieldValue_rateDtype_fifoRecompute p (factorWritten_wf hwf), fieldValue_rateDtype_factorWritten hwf]

/-- The recomputation's width stands over the span at the end: the clock gating does not touch it. -/
theorem fieldValue_fabricRate_setRateEffect {q : Fin 4} (hpar : ParamsOk s.par) (hlegal : legalFactor f c.gen = true)
    (hq : q ∈ span s.inp c k t b) :
    fieldValue (.blk (.fabricRate ch) k t q) (setRateEffect k t b ch f c s) =
      BitVec.ofNat 32
        (fifoWidth s.par f (dtypeOf (fieldValue (.blk .rateDtype k t (phys s.inp c k t b)) s)) (s.inp.hs k t)) := by
  have hwf' := factorWritten_wf (k := k) (t := t) (b := b) (ch := ch) (c := c) (f := f) hwf
  have hcode := factorDecode_factorWritten (k := k) (t := t) (b := b) (ch := ch) hwf hlegal
  rw [setRateEffect_eq, fieldValue_cgWrites_other (fifoRecompute_wf hwf') (by simp) (by simp),
    fifoRecompute_of_decode (by rwa [factorWritten_inp]), factorWritten_inp, factorWritten_par,
    fieldValue_spanWrites_mem _ (by rwa [portReads_conv]) rfl hq, fieldValue_rateDtype_factorWritten hwf]
  exact lowBits_ofNat_of_lt (fifoWidth_lt hpar)

end SetRate

theorem Err.code_ne_zero (e : Err) : e.code ≠ 0 := by
  cases e <;> decide

/-- A command whose posted code is `OK` ended by its rule, not by an error. -/
theorem eq_ok_of_finish {s t : State} {r : Except Err State} (hstep : finish s r = .next t) (herr : t.status.err = 0) : r = .ok t := by
  rcases finish_next s r with ⟨u, hr, hnext⟩ | ⟨e, hr, hnext⟩
  case inl =>
    cases hnext.symm.trans hstep
    exact hr
  case inr =>
    cases hnext.symm.trans hstep
    exact absurd herr e.code_ne_zero

/-- A per-block command that succeeds passed its checks and ran its rule. -/
theorem rule_of_onBlock_eq_ok {s u : State} {k : Kind} {tl : BitVec 3} {n b : Fin 4} {c : Converter}
    {rule : Converter → Fin 4 → Except Err State} (hc : s.inst = some c) (htl : tl.toNat = n.val)
    (hok : onBlock s k tl b rule = .ok u) : rule c n = .ok u := by
  rcases onBlock_cases s k tl b rule with ⟨e, herror⟩ | ⟨c', n', hc', htile, _, hrule⟩
  case inl => cases herror.symm.trans hok
  case inr =>
    obtain rfl : c' = c := Option.some.inj (hc'.symm.trans hc)
    obtain rfl : n' = n := Fin.ext ((tileOf_eq_some htile).symm.trans htl)
    exact hrule.symm.trans hok

/-- A successful SET_RATE had a legal factor, and leaves its effect, posted (R164). -/
theorem setRate_success {k : Kind} {tl : BitVec 3} {n b : Fin 4} {ch : Channel} {factor : BitVec 6} {s t : State} {c : Converter}
    (hc : s.inst = some c) (htl : tl.toNat = n.val) (hexec : exec (.setRate k tl b ch factor) s = .next t)
    (herr : t.status.err = 0) :
    legalFactor factor.toNat c.gen = true ∧ t = postOk (setRateEffect k n b ch factor.toNat c s) := by
  change execSetRate k tl b ch factor s = _ at hexec
  have hrule : setRateRule k b ch factor s c n = .ok t := rule_of_onBlock_eq_ok hc htl (eq_ok_of_finish hexec herr)
  unfold setRateRule at hrule
  split at hrule
  case isTrue => cases hrule
  case isFalse =>
    split at hrule
    case isTrue => cases hrule
    case isFalse hlegal =>
      cases hrule
      exact ⟨Bool.of_not_eq_false hlegal, rfl⟩

/-- Settles O35: R169's table row by row, then R178 from the width SET_RATE's recomputation writes and the data type it keeps. -/
theorem fifoWidthTracksRate : Obligations.FifoWidthTracksRate := by
  refine ⟨?table, ?tracks⟩
  case table =>
    intro par f dt hs _
    refine ⟨?off, fun hf hcol => ?iqHs, fun hf hdt hhs hrows => ?default, fun before after w hf hdt hhs hrows hbefore => ?row⟩
    case off =>
      rintro rfl
      exact fifoWidth_off
    case iqHs => rw [fifoWidth_of_iqHs hf hcol, fabricRateIqHs_eq hf]
    case default => rw [fifoWidth_of_real hf hdt hhs, fabricRateReal_of_no_row hrows, fabricRateRealDefault_eq hf]
    case row => rw [fifoWidth_of_real hf hdt hhs, fabricRateReal_of_first_row hrows hbefore]
  case tracks =>
    intro k tl n b ch factor s t c hwf hpar hc htl hexec herr q hq
    obtain ⟨hlegal, rfl⟩ := setRate_success hc htl hexec herr
    rw [fieldValue_postOk, fieldValue_postOk, fieldValue_rateDtype_setRateEffect hwf,
      fieldValue_fabricRate_setRateEffect hwf hpar hlegal hq]

end Sys2Proof.Machine
end

section
/-! PROOFS. The Nyquist zone: what SET_NYQUIST leaves and GET_NYQUIST reports (44_mixer_nco.md section 3, R214 to R217). -/

namespace Sys2Proof.Machine

/-- R37's row of an even physical block on a high-speed tile. -/
theorem span_of_hs_even {i : Inputs} {c : Converter} {k : Kind} {t b : Fin 4} (hhs : i.hs k t = true) (heven : b.val % 2 = 0) :
    span i c k t b = [b, b + 1] := by
  simp [span, phys_of_even heven, hhs, heven]

section Nyquist

variable {k : Kind} {tl : BitVec 3} {n b : Fin 4} {z : Zone} {s : State} {c : Converter}

/-- A zone's bit fits the 1-bit field `NYQ.ZONE`. -/
theorem lowBits_one_zoneBit (z : Zone) : lowBits 1 (zoneBit z) = zoneBit z := by
  cases z <;> rfl

theorem otherZone_otherZone (z : Zone) : otherZone (otherZone z) = z := by
  cases z <;> rfl

/-- SET_NYQUIST with its checks passed leaves its effect, posted (R214). -/
theorem exec_setNyquist_of {code : BitVec 2} (hc : s.inst = some c) (htl : tileOf tl = some n) (hz : zoneOf code = some z)
    (havail : available s.inp k n b = .ok ()) :
    exec (.setNyquist k tl b code) s = .next (postOk (setNyquistEffect k n b z c s)) := by
  change execSetNyquist k tl b code s = _
  simp [execSetNyquist, onTile_of _ hc htl, setNyquistRule, hz, havail]

/-- GET_NYQUIST with its checks passed posts the reported zone (R216). -/
theorem exec_getNyquist_of (hc : s.inst = some c) (htl : tileOf tl = some n) (havail : available s.inp k n b = .ok ()) :
    exec (.getNyquist k tl b) s =
      .next (postOk { portRead (.blk .nyqZone k n (phys s.inp c k n b)) s with
        res0 := (zoneCode (reportedZone c k n b s)).setWidth 32 }) := by
  change execGetNyquist k tl b s = _
  rw [execGetNyquist, onBlock_of _ hc htl havail]
  rfl

/-- The converter record SET_NYQUIST leaves (R214). -/
def zoneStored (k : Kind) (n b : Fin 4) (z : Zone) (c : Converter) : Converter :=
  c.setAna k n b { c.anaAt k n b with zone := z }

@[simp] theorem anaAt_zoneStored : (zoneStored k n b z c).anaAt k n b = { c.anaAt k n b with zone := z } := by
  simp [zoneStored, setAna_anaAt]

theorem setNyquistEffect_eq :
    setNyquistEffect k n b z c s =
      portWrites (spanWrites .nyqZone (zoneBit (hardwareZone s.par c k n b z)) k n (span s.inp c k n b))
        { s with inst := some (zoneStored k n b z c) } :=
  rfl

@[simp] theorem setNyquistEffect_inst : (setNyquistEffect k n b z c s).inst = some (zoneStored k n b z c) := by
  rw [setNyquistEffect_eq, portWrites_eq]

@[simp] theorem setNyquistEffect_inp : (setNyquistEffect k n b z c s).inp = s.inp :=
  portWrites_inp _ _

@[simp] theorem setNyquistEffect_par : (setNyquistEffect k n b z c s).par = s.par :=
  portWrites_par _ _

/-- Storing a zone leaves the block map alone: it reads the pairs only (R36). -/
theorem phys_zoneStored (i : Inputs) : phys i (zoneStored k n b z c) k n b = phys i c k n b :=
  rfl

/-- Storing a zone leaves the flip alone: it reads the generation and the calibration mode only (R215). -/
theorem zoneFlip_zoneStored (par : Params) : zoneFlip par (zoneStored k n b z c) k n b = zoneFlip par c k n b := by
  simp only [zoneFlip, anaAt_zoneStored]
  rfl

theorem hardwareZone_of_zoneFlip {par : Params} (hflip : zoneFlip par c k n b = true) :
    hardwareZone par c k n b z = otherZone z :=
  if_pos hflip

/-- R216 from the hardware's zone: flipping back undoes R214's flip. -/
theorem reportedZone_of_fieldValue
    (hfield : fieldValue (.blk .nyqZone k n (phys s.inp c k n b)) s = zoneBit (hardwareZone s.par c k n b z)) :
    reportedZone c k n b s = z := by
  have hread (y : Zone) : (if zoneBit y = 1 then Zone.even else Zone.odd) = y := by
    cases y <;> rfl
  simp only [reportedZone, hfield, hread, hardwareZone]
  split
  · exact otherZone_otherZone z
  · rfl

variable (hwf : Memory.wf s.conv = true)
include hwf

theorem fieldValue_nyqZone_setNyquistEffect {q : Fin 4} (hq : q ∈ span s.inp c k n b) :
    fieldValue (.blk .nyqZone k n q) (setNyquistEffect k n b z c s) = zoneBit (hardwareZone s.par c k n b z) := by
  rw [setNyquistEffect_eq, fieldValue_spanWrites_mem (s := { s with inst := some (zoneStored k n b z c) }) _ hwf rfl hq]
  exact lowBits_one_zoneBit _

/-- GET_NYQUIST after SET_NYQUIST reports the requested zone, flipped or not. -/
theorem reportedZone_setNyquistEffect :
    reportedZone (zoneStored k n b z c) k n b (postOk (setNyquistEffect k n b z c s)) = z := by
  apply reportedZone_of_fieldValue
  rw [fieldValue_postOk]
  change fieldValue (.blk .nyqZone k n (phys (setNyquistEffect k n b z c s).inp _ k n b)) _ =
    zoneBit (hardwareZone (setNyquistEffect k n b z c s).par _ k n b z)
  rw [setNyquistEffect_inp, setNyquistEffect_par, phys_zoneStored,
    fieldValue_nyqZone_setNyquistEffect hwf (phys_mem_span ..), hardwareZone, hardwareZone, zoneFlip_zoneStored]

end Nyquist

/-- Settles O50: the span of block 0 is blocks 0 and 1, the flip makes ODD's bit EVEN's, and GET_NYQUIST flips it back. -/
theorem scenarioCZoneFlip : Obligations.ScenarioCZoneFlip := by
  intro s c hwf hgens hc hgen hhs hcal htile hblock hpath
  have havail : available s.inp .adc 2 0 = .ok () := available_ok.mpr ⟨htile, hblock, hpath⟩
  have htl : tileOf 2 = some (2 : Fin 4) := rfl
  have hspan : span s.inp c .adc 2 0 = [0, 1] := span_of_hs_even hhs rfl
  have hflip : zoneFlip s.par c .adc 2 0 = true := by simp [zoneFlip, hgens, hgen, hcal]
  have hwritten (q : Fin 4) (hq : q ∈ [0, 1]) :
      fieldValue (.blk .nyqZone .adc 2 q) (postOk (setNyquistEffect .adc 2 0 .odd c s)) = 1 := by
    rw [fieldValue_postOk, fieldValue_nyqZone_setNyquistEffect hwf (hspan ▸ hq), hardwareZone_of_zoneFlip hflip]
    rfl
  refine ⟨_, _, _, exec_setNyquist_of hc htl rfl havail, rfl, setNyquistEffect_inst, ?stored, hwritten 0 (by simp),
    hwritten 1 (by simp), exec_getNyquist_of setNyquistEffect_inst htl ?available, rfl, ?reported⟩
  case stored => rw [anaAt_zoneStored]
  case available => exact (congrArg (available · .adc 2 0) setNyquistEffect_inp).trans havail
  case reported =>
    change (zoneCode (reportedZone _ .adc 2 0 _)).setWidth 32 = _
    rw [reportedZone_setNyquistEffect hwf]
    rfl

end Sys2Proof.Machine
end

section
/-! PROOFS. The mixer: what SET_MIXER leaves in the converter fields (44_mixer_nco.md sections 1 and 2, R190 to R213). -/

namespace Sys2Proof.Machine

/-- R37's row of a standard tile. -/
theorem span_of_standard {i : Inputs} {c : Converter} {k : Kind} {t b : Fin 4} (hstd : i.hs k t = false) : span i c k t b = [b] := by
  simp [span, phys_of_standard hstd, hstd]

section FieldValues

/-- A value of at most `n` bits is not cut. -/
theorem lowBits_setWidth {m n : Nat} (hmn : m ≤ n) (x : BitVec m) : lowBits n (x.setWidth 32) = x.setWidth 32 := by
  have hx : (x.setWidth 32).toNat < 2 ^ n := by
    rw [BitVec.toNat_setWidth]
    exact (Nat.mod_le _ _).trans_lt (x.isLt.trans_le (Nat.pow_le_pow_right (by decide) hmn))
  rw [lowBits, Nat.mod_eq_of_lt hx, BitVec.ofNat_toNat, BitVec.setWidth_eq]

/-- Cutting twice is cutting once. -/
theorem lowBits_lowBits (n : Nat) (v : Word) : lowBits n (lowBits n v) = lowBits n v := by
  have hv : (lowBits n v).toNat = v.toNat % 2 ^ n := by
    rw [lowBits, BitVec.toNat_ofNat, Nat.mod_eq_of_lt ((Nat.mod_le _ _).trans_lt v.isLt)]
  rw [lowBits, hv, Nat.mod_mod, lowBits]

/-- The three 16-bit parts of a 48-bit word make it up. -/
theorem extractLsb'_parts_48 (w : BitVec 48) : w.extractLsb' 32 16 ++ w.extractLsb' 16 16 ++ w.extractLsb' 0 16 = w := by
  rw [BitVec.extractLsb'_append_extractLsb'_eq_extractLsb' (by decide), BitVec.extractLsb'_append_extractLsb'_eq_extractLsb' (by decide)]
  exact BitVec.extractLsb'_eq_self

theorem extractLsb'_parts_17 (w : BitVec 17) : w.extractLsb' 16 1 ++ w.extractLsb' 0 16 = w := by
  rw [BitVec.extractLsb'_append_extractLsb'_eq_extractLsb' (by decide)]
  exact BitVec.extractLsb'_eq_self

/-- A narrow value is read back from a word that holds it. -/
theorem extractLsb'_setWidth_self {m : Nat} (hm : m ≤ 32) (x : BitVec m) : (x.setWidth 32).extractLsb' 0 m = x := by
  rw [← BitVec.setWidth_eq_extractLsb' hm, BitVec.setWidth_setWidth_of_le _ hm, BitVec.setWidth_eq]

end FieldValues

section Port

variable {s : State}

/-- A field a list of writes reaches holds its written value, when no write of the list gives the field another one. -/
theorem fieldValue_portWrites_of_mem {a : FieldAddr} {v : Word} (ws : List (FieldAddr × Word)) (hwf : Memory.wf s.conv = true)
    (hheld : a.notHeld = false) (hmem : (a, v) ∈ ws) (hsole : ∀ w ∈ ws, w.1 = a → w.2 = v) :
    fieldValue a (portWrites ws s) = lowBits (a.width s.par) v := by
  induction ws generalizing s with
  | nil => cases hmem
  | cons w rest ih =>
    change fieldValue a (portWrites rest (portWrite w.1 w.2 s)) = _
    have hwf' : Memory.wf (portWrite w.1 w.2 s).conv = true := portWrite_wf _ _ hwf
    by_cases hrest : (a, v) ∈ rest
    case pos => exact ih hwf' hrest fun x hx => hsole x (List.mem_cons_of_mem _ hx)
    case neg =>
      obtain rfl : (a, v) = w := (List.mem_cons.mp hmem).resolve_right hrest
      rw [fieldValue_portWrites_other _ _ _ hwf', fieldValue_portWrite_same _ _ _ hheld]
      rintro ⟨a', v'⟩ hx rfl
      obtain rfl := hsole _ (List.mem_cons_of_mem _ hx) rfl
      exact hrest hx

theorem portWrites_port (ws : List (FieldAddr × Word)) : (portWrites ws s).port = s.port ++ ws.map fun w => .write w.1 w.2 := by
  rw [portWrites_eq]

theorem fieldValue_fifoRecompute_other {a : FieldAddr} {c : Converter} {k : Kind} {t b : Fin 4} {ch : Channel}
    (hwf : Memory.wf s.conv = true) (ha : ∀ p, a ≠ .blk (.fabricRate ch) k t p) :
    fieldValue a (fifoRecompute c k t b ch s) = fieldValue a s := by
  unfold fifoRecompute recomputeWrites
  split
  · exact fieldValue_portReads _ _ s
  · rw [fieldValue_spanWrites_other (by rwa [portReads_conv]) fun p _ => ha p, fieldValue_portReads]

/-- The recomputation's accesses come after those already made. -/
theorem port_grows_fifoRecompute (c : Converter) (k : Kind) (t b : Fin 4) (ch : Channel) (s : State) :
    s.port <+: (fifoRecompute c k t b ch s).port := by
  rw [fifoRecompute_eq]
  exact ⟨_, (List.append_assoc ..).symm⟩

end Port

section FieldWrites

variable {i : Inputs} {par : Params} {c : Converter} {k : Kind} {t b : Fin 4} {x : Settings} {a : ArgLatch}

/-- SET_MIXER's writes at a block are to R203's fields, in order. -/
theorem mixerBlockWrites_addrs (p : Fin 4) :
    (mixerBlockWrites i par c k t b x a p).map Prod.fst = mixerFields.map fun f => .blk f k t p :=
  rfl

theorem mem_mixerBlockWrites_addr {p : Fin 4} {w : FieldAddr × Word} (hw : w ∈ mixerBlockWrites i par c k t b x a p) :
    ∃ f ∈ mixerFields, w.1 = .blk f k t p := by
  have haddr : w.1 ∈ mixerFields.map fun f => FieldAddr.blk f k t p := by
    rw [← mixerBlockWrites_addrs]
    exact List.mem_map_of_mem hw
  obtain ⟨f, hf, heq⟩ := List.mem_map.mp haddr
  exact ⟨f, hf, heq.symm⟩

/-- No field is written twice at a block. -/
theorem mixerBlockWrites_addrs_nodup (p : Fin 4) : ((mixerBlockWrites i par c k t b x a p).map Prod.fst).Nodup := by
  rw [mixerBlockWrites_addrs]
  refine List.Nodup.map ?_ (by decide)
  rintro f f' ⟨⟩
  rfl

/-- Over any blocks, an address is written with one value only. -/
theorem mixerWrites_value_unique {ps : List (Fin 4)} {p : Fin 4} {w w' : FieldAddr × Word}
    (hw : w ∈ mixerBlockWrites i par c k t b x a p) (hw' : w' ∈ ps.flatMap (mixerBlockWrites i par c k t b x a))
    (haddr : w'.1 = w.1) : w'.2 = w.2 := by
  obtain ⟨p', -, hw'⟩ := List.mem_flatMap.mp hw'
  obtain ⟨f, -, hf⟩ := mem_mixerBlockWrites_addr hw
  obtain ⟨f', -, hf'⟩ := mem_mixerBlockWrites_addr hw'
  obtain rfl : p' = p := by
    rw [hf, hf'] at haddr
    cases haddr
    rfl
  exact congrArg Prod.snd (List.inj_on_of_nodup_map (mixerBlockWrites_addrs_nodup p') hw' hw haddr)

/-- R203's fields are all held, so the update pulse is none of them. -/
theorem notHeld_of_mem_mixerFields (p : Fin 4) : ∀ f ∈ mixerFields, (FieldAddr.blk f k t p).notHeld = false := by
  simp [mixerFields, FieldAddr.notHeld]

theorem mixUpdate_notMem_mixerFields : .mixUpdate ∉ mixerFields := by
  decide

theorem fabricRate_notMem_mixerFields (ch : Channel) : .fabricRate ch ∉ mixerFields := by
  cases ch <;> decide

end FieldWrites

section SetMixer

variable {k : Kind} {n b : Fin 4} {s : State} {c : Converter} {x : Settings}

/-- The state SET_MIXER recomputes the FIFO widths from: fields and pulses written over the span, the request persisted (R190). -/
def mixerWritten (k : Kind) (n b : Fin 4) (x : Settings) (c : Converter) (s : State) : State :=
  { portWrites (updateWrites x k n (span s.inp c k n b))
      (portWrites ((span s.inp c k n b).flatMap (mixerBlockWrites s.inp s.par c k n b x s.argL)) s) with
    inst := some (c.setBlk k n b (persistedBlk (c.blkAt k n b) k x s.argL)) }

theorem setMixerEffect_eq :
    setMixerEffect k n b x c s =
      if k = .adc ∧ 3 ≤ c.gen then fifoRecompute c k n b .obs (fifoRecompute c k n b .live (mixerWritten k n b x c s))
      else fifoRecompute c k n b .live (mixerWritten k n b x c s) :=
  rfl

theorem mixerWritten_port :
    (mixerWritten k n b x c s).port =
      s.port ++ ((span s.inp c k n b).flatMap (mixerBlockWrites s.inp s.par c k n b x s.argL)).map (fun w => .write w.1 w.2) ++
        (updateWrites x k n (span s.inp c k n b)).map fun w => .write w.1 w.2 := by
  change (portWrites _ _).port = _
  rw [portWrites_port, portWrites_port]

theorem port_grows_setMixerEffect : (mixerWritten k n b x c s).port <+: (setMixerEffect k n b x c s).port := by
  have hlive := port_grows_fifoRecompute c k n b .live (mixerWritten k n b x c s)
  rw [setMixerEffect_eq]
  split
  · exact hlive.trans (port_grows_fifoRecompute ..)
  · exact hlive

/-- With an immediate event the update is pulsed at every block of the span (R206). -/
theorem mixUpdate_mem_port {p : Fin 4} (hevt : x.evt = .immediate) (hp : p ∈ span s.inp c k n b) :
    .write (.blk .mixUpdate k n p) 1 ∈ (setMixerEffect k n b x c s).port.drop s.port.length := by
  have hpulse : (FieldAddr.blk .mixUpdate k n p, 1) ∈ updateWrites x k n (span s.inp c k n b) := by
    rw [updateWrites, if_pos hevt]
    exact List.mem_map_of_mem hp
  obtain ⟨later, hport⟩ := port_grows_setMixerEffect (k := k) (n := n) (b := b) (x := x) (c := c) (s := s)
  rw [← hport, mixerWritten_port, List.append_assoc, List.append_assoc, List.drop_left]
  exact List.mem_append_right _ (List.mem_append_left _ (List.mem_map_of_mem hpulse))

/-- The recomputations and the pulses write none of R203's fields. -/
theorem fieldValue_setMixerEffect_of_mem_mixerFields {f : BlockField} (p : Fin 4) (hwf : Memory.wf s.conv = true)
    (hf : f ∈ mixerFields) :
    fieldValue (.blk f k n p) (setMixerEffect k n b x c s) =
      fieldValue (.blk f k n p) (portWrites ((span s.inp c k n b).flatMap (mixerBlockWrites s.inp s.par c k n b x s.argL)) s) := by
  have hrate (ch : Channel) (q : Fin 4) : FieldAddr.blk f k n p ≠ .blk (.fabricRate ch) k n q := by
    rintro ⟨⟩
    exact fabricRate_notMem_mixerFields ch hf
  have hpulse (w : FieldAddr × Word) (hw : w ∈ updateWrites x k n (span s.inp c k n b)) : FieldAddr.blk f k n p ≠ w.1 := by
    unfold updateWrites at hw
    split at hw
    case isTrue =>
      obtain ⟨q, -, rfl⟩ := List.mem_map.mp hw
      rintro ⟨⟩
      exact mixUpdate_notMem_mixerFields hf
    case isFalse => cases hw
  have hwf' : Memory.wf (mixerWritten k n b x c s).conv = true := portWrites_wf _ (portWrites_wf _ hwf)
  have hlive : fieldValue (.blk f k n p) (fifoRecompute c k n b .live (mixerWritten k n b x c s)) =
      fieldValue (.blk f k n p) (portWrites ((span s.inp c k n b).flatMap (mixerBlockWrites s.inp s.par c k n b x s.argL)) s) := by
    rw [fieldValue_fifoRecompute_other hwf' (hrate .live), mixerWritten, fieldValue_withInst,
      fieldValue_portWrites_other _ _ _ (portWrites_wf _ hwf) hpulse]
  rw [setMixerEffect_eq]
  split
  · rw [fieldValue_fifoRecompute_other (fifoRecompute_wf hwf') (hrate .obs), hlive]
  · exact hlive

/-- Over its span SET_MIXER leaves at each of R203's fields the value it writes there. -/
theorem fieldValue_setMixerEffect {p : Fin 4} {f : BlockField} {v : Word} (hwf : Memory.wf s.conv = true)
    (hp : p ∈ span s.inp c k n b) (hw : (.blk f k n p, v) ∈ mixerBlockWrites s.inp s.par c k n b x s.argL p) :
    fieldValue (.blk f k n p) (setMixerEffect k n b x c s) = lowBits ((FieldAddr.blk f k n p).width s.par) v := by
  obtain ⟨f', hf, heq⟩ := mem_mixerBlockWrites_addr hw
  cases heq
  rw [fieldValue_setMixerEffect_of_mem_mixerFields p hwf hf]
  exact fieldValue_portWrites_of_mem _ hwf (notHeld_of_mem_mixerFields p f hf) (List.mem_flatMap.mpr ⟨p, hp, hw⟩)
    fun w' hw' haddr => mixerWrites_value_unique hw hw' haddr

section SpanFields

variable {p : Fin 4} (hwf : Memory.wf s.conv = true) (hp : p ∈ span s.inp c k n b)
include hwf hp

/-- The frequency word stands in its three fields over the span (R203). -/
theorem freqWordAt_setMixerEffect : freqWordAt k n p (setMixerEffect k n b x c s) = setFreqWord c k n b s.argL := by
  rw [freqWordAt,
    fieldValue_setMixerEffect (f := .ncoFreqUpp) (v := ((setFreqWord c k n b s.argL).extractLsb' 32 16).setWidth 32) hwf hp
      (by simp [mixerBlockWrites]),
    fieldValue_setMixerEffect (f := .ncoFreqMid) (v := ((setFreqWord c k n b s.argL).extractLsb' 16 16).setWidth 32) hwf hp
      (by simp [mixerBlockWrites]),
    fieldValue_setMixerEffect (f := .ncoFreqLow) (v := ((setFreqWord c k n b s.argL).extractLsb' 0 16).setWidth 32) hwf hp
      (by simp [mixerBlockWrites])]
  simp only [FieldAddr.width, lowBits_setWidth (Nat.le_refl 16), extractLsb'_setWidth_self (show 16 ≤ 32 by decide)]
  exact extractLsb'_parts_48 _

/-- The phase word stands in its two fields over the span (R203). -/
theorem phaseWordAt_setMixerEffect : phaseWordAt k n p (setMixerEffect k n b x c s) = phaseWord s.argL.arg1 := by
  rw [phaseWordAt,
    fieldValue_setMixerEffect (f := .ncoPhaseMid) (v := ((phaseWord s.argL.arg1).extractLsb' 16 1).setWidth 32) hwf hp
      (by simp [mixerBlockWrites, phaseArg]),
    fieldValue_setMixerEffect (f := .ncoPhaseLow) (v := ((phaseWord s.argL.arg1).extractLsb' 0 16).setWidth 32) hwf hp
      (by simp [mixerBlockWrites, phaseArg])]
  simp only [FieldAddr.width, lowBits_setWidth (show 1 ≤ 16 by decide), lowBits_setWidth (Nat.le_refl 16),
    extractLsb'_setWidth_self (show 1 ≤ 32 by decide), extractLsb'_setWidth_self (show 16 ≤ 32 by decide)]
  exact extractLsb'_parts_17 _

theorem fieldValue_ncoPhaseUpp_setMixerEffect : fieldValue (.blk .ncoPhaseUpp k n p) (setMixerEffect k n b x c s) = 0 := by
  rw [fieldValue_setMixerEffect (v := 0) hwf hp (by simp [mixerBlockWrites])]
  rfl

theorem fieldValue_mixEvt_setMixerEffect :
    fieldValue (.blk .mixEvt k n p) (setMixerEffect k n b x c s) = (evtCode x.evt).setWidth 32 := by
  rw [fieldValue_setMixerEffect (v := (evtCode x.evt).setWidth 32) hwf hp (by simp [mixerBlockWrites])]
  exact lowBits_setWidth (Nat.le_refl 3) _

theorem fieldValue_rateDtype_setMixerEffect :
    fieldValue (.blk .rateDtype k n p) (setMixerEffect k n b x c s) = (category k x.mode).bit.setWidth 32 := by
  rw [fieldValue_setMixerEffect (v := (category k x.mode).bit.setWidth 32) hwf hp (by simp [mixerBlockWrites])]
  exact lowBits_setWidth (Nat.le_refl 1) _

/-- The table's coarse and fine values stand over the span (R204). -/
theorem fieldValue_mixCoarse_setMixerEffect :
    fieldValue (.blk .mixCoarse k n p) (setMixerEffect k n b x c s) =
      (mixerEnc s.par x.type x.mode (encodedSel c k n b x.sel) (s.inp.hs k n) (p.val % 2 == 1)).1 := by
  rw [fieldValue_setMixerEffect
    (v := (mixerEnc s.par x.type x.mode (encodedSel c k n b x.sel) (s.inp.hs k n) (p.val % 2 == 1)).1)
    hwf hp (by simp [mixerBlockWrites])]
  exact lowBits_lowBits _ _

theorem fieldValue_mixFine_setMixerEffect :
    fieldValue (.blk .mixFine k n p) (setMixerEffect k n b x c s) =
      (mixerEnc s.par x.type x.mode (encodedSel c k n b x.sel) (s.inp.hs k n) (p.val % 2 == 1)).2 := by
  rw [fieldValue_setMixerEffect
    (v := (mixerEnc s.par x.type x.mode (encodedSel c k n b x.sel) (s.inp.hs k n) (p.val % 2 == 1)).2)
    hwf hp (by simp [mixerBlockWrites])]
  exact lowBits_lowBits _ _

end SpanFields

end SetMixer

section Checks

variable {k : Kind} {tl : BitVec 3} {n b : Fin 4} {s : State} {c : Converter} {x : Settings}

/-- Every event but the marker passes the event check on a standard ADC tile (R194). -/
theorem eventOk_of_standard_adc {i : Inputs} {par : Params} {ev : EventSrc} (hstd : i.hs .adc n = false) (hev : ev ≠ .marker) :
    eventOk i par .adc n ev = true := by
  simp [eventOk, hstd, hev]

/-- A request that no check of R192 to R196 refuses passes them. -/
theorem mixerChecks_eq_ok {a : ArgLatch} (hsettings : settingsOf a.arg2 = some x)
    (hbypass : ¬(k = .dac ∧ (c.blkAt k n b).dpMode = .fullBwBypass)) (hcons : consistent x = true)
    (hevt : eventOk s.inp s.par k n x.evt = true) (hphase : -180000 < a.arg1.toInt ∧ a.arg1.toInt < 180000)
    (hfreq : 4 * |(freqArg a).toInt| ≤ (halfRate c k n b : Int)) : mixerChecks s c k n b a = .ok x := by
  have hphase' : ¬((phaseArg a).toInt ≤ -180000 ∨ 180000 ≤ (phaseArg a).toInt) := by
    unfold phaseArg
    omega
  simp [mixerChecks, hsettings, hbypass, hcons, hevt, hphase', Int.not_lt.mpr hfreq]

/-- SET_MIXER with its checks passed leaves its effect, posted (R190). -/
theorem exec_setMixer_of (hc : s.inst = some c) (htl : tileOf tl = some n) (havail : available s.inp k n b = .ok ())
    (hchecks : mixerChecks s c k n b s.argL = .ok x) :
    exec (.setMixer k tl b) s = .next (postOk (setMixerEffect k n b x c s)) := by
  change execSetMixer k tl b s = _
  simp [execSetMixer, onBlock_of _ hc htl havail, setMixerRule, hchecks]

end Checks

section Encoding

variable {c : Converter} {k : Kind} {n b : Fin 4}

/-- The compensation needs a generation 1 or 2 and calibration mode 1 (R198). -/
theorem quirk_eq_false (h : 3 ≤ c.gen ∨ (c.anaAt k n b).cal = .mode2) : quirk c k n b = false := by
  rcases h with hgen | hcal
  · have hmodern : c.gen ∉ quirkMixGens := by
      simp only [quirkMixGens, List.mem_cons, List.not_mem_nil, or_false]
      omega
    simp [quirk, hmodern]
  · simp [quirk, hcal]

theorem encodedSel_of_not_quirk {sl : CoarseSel} (hquirk : quirk c k n b = false) : encodedSel c k n b sl = sl := by
  simp [encodedSel, hquirk]

/-- Neither of NORMALISE's loops turns for a frequency within half the effective rate (R199). -/
theorem normalise_of_within {f : Int} {h : Nat} (hlow : -(h : Int) ≤ f) (hhigh : f ≤ h) : normalise f h = (f, 0) := by
  simp [normalise, adjustments, Int.not_lt.mpr hlow, Int.not_lt.mpr hhigh]

/-- Without compensation a zero frequency is the zero word, in either zone (R199). -/
theorem freqWord_zero (h : Nat) (z : Zone) : freqWord 0 h false z = 0 := by
  have hnorm : normalise 0 h = (0, 0) := normalise_of_within (by omega) (by omega)
  simp [freqWord, compensated, hnorm, truncDiv]

theorem setFreqWord_of_zero {a : ArgLatch} (hquirk : quirk c k n b = false) (hfreq : freqArg a = 0) : setFreqWord c k n b a = 0 := by
  rw [setFreqWord, hquirk, hfreq, freqWord_zero]

/-- The default table's entry (R205), cut to the default widths. -/
theorem mixerEnc_default {par : Params} {ty : MixType} {md : MixMode} {sl : CoarseSel} {hs odd : Bool} (hdef : DefaultMixerTable par)
    (hty : ty ≠ .off) : mixerEnc par ty md sl hs odd = (lowBits 3 ((selCode sl).setWidth 32), lowBits 7 (fineDefault ty md)) := by
  simp [mixerEnc, mixerEntry, hty, hdef.rows, hdef.coarseBits, hdef.fineBits]

end Encoding

/-- The settings of R213's Scenario A: coarse Fs/2, C2C, immediate. -/
def coarseFsHalf : Settings := { type := .coarse, mode := .c2c, sel := .fs2, evt := .immediate, scale := .auto }

theorem settingsOf_scenarioA : settingsOf 0x00000045 = some coarseFsHalf := by
  decide

/-- Settles O47: the request passes SET_MIXER's checks, and each field is its general value at R213's operands. -/
theorem scenarioACoarseFsHalf : Obligations.ScenarioACoarseFsHalf := by
  intro s c hwf htable hc htile hblock hpath hstd hcomp _ _ hargs
  have htl : tileOf 0 = some (0 : Fin 4) := rfl
  have havail : available s.inp .adc 0 0 = .ok () := available_ok.mpr ⟨htile, hblock, hpath⟩
  have hp : 0 ∈ span s.inp c .adc 0 0 := by simp [span_of_standard hstd]
  have hquirk : quirk c .adc 0 0 = false := quirk_eq_false hcomp
  have hfreq : freqArg s.argL = 0 := by
    rw [hargs]
    rfl
  have hchecks : mixerChecks s c .adc 0 0 s.argL = .ok coarseFsHalf :=
    mixerChecks_eq_ok (hargs ▸ settingsOf_scenarioA) (by simp) rfl (eventOk_of_standard_adc hstd nofun) (by simp [hargs])
      (by simp [hfreq])
  have henc : mixerEnc s.par .coarse .c2c (encodedSel c .adc 0 0 .fs2) (s.inp.hs .adc 0) ((0 : Fin 4).val % 2 == 1) = (2, 0x65) := by
    rw [encodedSel_of_not_quirk hquirk, mixerEnc_default htable (by decide)]
    rfl
  refine ⟨settingsOf_scenarioA, _, exec_setMixer_of hc htl havail hchecks, rfl, ?freq, ?phase, ?upper, ?coarse, ?fine, ?event,
    ?dtype, mixUpdate_mem_port rfl hp⟩
  case freq => exact (freqWordAt_setMixerEffect hwf hp).trans (setFreqWord_of_zero hquirk hfreq)
  case phase =>
    refine (phaseWordAt_setMixerEffect hwf hp).trans ?_
    rw [hargs]
    rfl
  case upper => rw [fieldValue_postOk, fieldValue_ncoPhaseUpp_setMixerEffect hwf hp]
  case coarse =>
    rw [fieldValue_postOk, fieldValue_mixCoarse_setMixerEffect hwf hp]
    exact congrArg Prod.fst henc
  case fine =>
    rw [fieldValue_postOk, fieldValue_mixFine_setMixerEffect hwf hp]
    exact congrArg Prod.snd henc
  case event =>
    rw [fieldValue_postOk, fieldValue_mixEvt_setMixerEffect hwf hp]
    rfl
  case dtype =>
    rw [fieldValue_postOk, fieldValue_rateDtype_setMixerEffect hwf hp]
    rfl

end Sys2Proof.Machine
end

section
/-! PROOFS. The decoder against the encoder: the bits of a command's word, and the decode checks of R94 (30_encoding.md). -/

namespace Sys2Proof

open Machine

section Bits

theorem getLsbD_fieldMask (w n sh i : Nat) :
    (fieldMask w n sh).getLsbD i = (decide (i < w) && decide (sh ≤ i) && decide (i < sh + n)) := by
  rw [fieldMask, BitVec.getLsbD_shiftLeft, BitVec.getLsbD_ofNat, Nat.testBit_two_pow_sub_one]
  grind

/-- A word has no bit under a field's mask exactly when the field reads 0. -/
theorem and_fieldMask_eq_zero_iff {w : Word} {lo n : Nat} (hfits : lo + n ≤ 32) :
    w &&& fieldMask 32 n lo = 0 ↔ bits w lo n = 0 := by
  simp only [bits, BitVec.eq_of_getLsbD_eq_iff, BitVec.getLsbD_and, getLsbD_fieldMask, BitVec.getLsbD_extractLsb',
    BitVec.ofNat_eq_ofNat, BitVec.getLsbD_zero]
  constructor
  · intro h j hj
    have := h (lo + j) (by omega)
    grind
  · intro h j _
    by_cases hin : lo ≤ j ∧ j < lo + n
    · have := h (j - lo) (by omega)
      grind
    · grind

/-- The reserved fields of an opcode's word, as (lowest bit, width) (R96). -/
def Opcode.reservedFields : Opcode → List (Nat × Nat)
  | .init => [(0, 24)]
  | .getStatus | .getPair | .setMixer | .getMixer | .getNyquist => [(0, 18)]
  | .restart => [(12, 8), (4, 4)]
  | .resolvePair => [(5, 13), (2, 2)]
  | .setRate => [(6, 11)]
  | .getRate => [(0, 17)]
  | .setNyquist => [(2, 16)]

theorem reservedZeroMask_eq (op : Opcode) :
    op.reservedZeroMask = (op.reservedFields.map fun r => fieldMask 32 r.2 r.1).foldr (· ||| ·) 0 := by
  cases op <;> rfl

theorem reservedFields_fit (op : Opcode) : ∀ r ∈ op.reservedFields, r.1 + r.2 ≤ 32 := by
  cases op <;> decide

theorem and_foldr_or_eq_zero_iff (w : Word) (ms : List Word) : w &&& ms.foldr (· ||| ·) 0 = 0 ↔ ∀ m ∈ ms, w &&& m = 0 := by
  induction ms with
  | nil => simp
  | cons m rest ih =>
    rw [List.foldr_cons, BitVec.and_or_distrib_left, List.forall_mem_cons, ← ih]
    exact BitVec.or_eq_zero_iff

/-- The mask test of R94 says that every reserved field reads 0. -/
theorem and_reservedZeroMask_eq_zero_iff (op : Opcode) (w : Word) :
    w &&& op.reservedZeroMask = 0 ↔ ∀ r ∈ op.reservedFields, bits w r.1 r.2 = 0 := by
  rw [reservedZeroMask_eq, and_foldr_or_eq_zero_iff, List.forall_mem_map]
  exact forall₂_congr fun r hr => and_fieldMask_eq_zero_iff (reservedFields_fit op r hr)

end Bits

section Fields

theorem kind_of_bit (k : Kind) : (if k.bit = 1#1 then Kind.dac else .adc) = k := by cases k <;> rfl

theorem channel_of_bit (ch : Channel) : (if ch.bit = 1#1 then Channel.obs else .live) = ch := by cases ch <;> rfl

theorem category_of_bit (cat : Category) : (if cat.bit = 1#1 then Category.iq else .real) = cat := by cases cat <;> rfl

theorem bit_kindOf (w : Word) : (kindOf w).bit = bits w 23 1 := by
  rcases BitVec.eq_zero_or_eq_one (bits w 23 1) with h | h <;> simp [kindOf, h, Kind.bit]

theorem bit_channelOf (w : Word) : (channelOf w).bit = bits w 17 1 := by
  rcases BitVec.eq_zero_or_eq_one (bits w 17 1) with h | h <;> simp [channelOf, h, Channel.bit]

theorem bit_categoryOf (w : Word) : (categoryOf w).bit = bits w 4 1 := by
  rcases BitVec.eq_zero_or_eq_one (bits w 4 1) with h | h <;> simp [categoryOf, h, Category.bit]

theorem ofFin_blockOf (w : Word) : BitVec.ofFin (w := 2) (blockOf w) = bits w 18 2 := rfl

/-- `{K, T, B}` of a word's fields is its bits [23:18] (R81). -/
theorem blockField_eq_bits (w : Word) : blockField (kindOf w) (bits w 20 3) (blockOf w) = bits w 18 6 := by
  simp (disch := decide) only [blockField, bit_kindOf, ofFin_blockOf, bits,
    BitVec.extractLsb'_append_extractLsb'_eq_extractLsb']

end Fields

/-- An encoded command has no reserved bit set (R96). -/
theorem encode_and_reservedZeroMask (i : Instr) : encode i &&& i.opcode.reservedZeroMask = 0 := by
  rw [and_reservedZeroMask_eq_zero_iff]
  cases i <;>
    simp (disch := decide) only [Instr.opcode, Opcode.reservedFields, List.forall_mem_cons, bits, encode, Instr.operandBits,
      blockField, BitVec.extractLsb'_append_eq_of_add_le, BitVec.extractLsb'_append_eq_of_le] <;>
    simp

/-- Each field stands in the word where the decoder reads it (R81, R85). -/
theorem build_encode (i : Instr) : build i.opcode (encode i) = i := by
  cases i <;>
    simp (disch := decide) only [Instr.opcode, build, kindOf, tileSelOf, blockOf, channelOf, categoryOf, bits, encode,
      Instr.operandBits, blockField, BitVec.extractLsb'_append_eq_of_add_le, BitVec.extractLsb'_append_eq_of_le] <;>
    simp [kind_of_bit, channel_of_bit, category_of_bit]

/-- Settles O1: the word's reserved bits are 0 and its fields are the command's. -/
theorem decodeReadsEncode : Obligations.DecodeReadsEncode :=
  fun i => decode_of_encode_eq rfl (encode_and_reservedZeroMask i) (build_encode i)

/-- What decodes has an opcode's byte and no reserved bit, and is read off the fields (R94 to R96). -/
theorem decode_eq_ok {w : Word} {i : Instr} (h : decode w = .ok i) :
    ∃ op, bits w 24 8 = op.code ∧ w &&& op.reservedZeroMask = 0 ∧ build op w = i := by
  unfold decode at h
  split at h
  · cases h
  · next op hop =>
    split at h
    · next hzero =>
      cases h
      exact ⟨op, (code_of_ofCode hop).symm, hzero, rfl⟩
    · cases h

/-- Bits [23:0] are the operand bits of the fields read, as the reserved bits between them are 0. -/
theorem operandBits_build {op : Opcode} {w : Word} (hzero : w &&& op.reservedZeroMask = 0) :
    (build op w).operandBits = bits w 0 24 := by
  rw [and_reservedZeroMask_eq_zero_iff] at hzero
  cases op <;>
    simp only [Opcode.reservedFields, List.mem_cons, List.not_mem_nil, or_false, forall_eq_or_imp, forall_eq] at hzero <;>
    simp only [build, Instr.operandBits, blockField_eq_bits, bit_kindOf, bit_channelOf, bit_categoryOf, tileSelOf]
  case init => exact hzero.symm
  case restart =>
    obtain ⟨hhigh, hlow⟩ := hzero
    rw [show 0#8 = bits w 12 8 from hhigh.symm, show 0#4 = bits w 4 4 from hlow.symm]
    simp (disch := decide) only [bits, BitVec.extractLsb'_append_extractLsb'_eq_extractLsb']
  case resolvePair =>
    obtain ⟨hhigh, hlow⟩ := hzero
    rw [show 0#13 = bits w 5 13 from hhigh.symm, show 0#2 = bits w 2 2 from hlow.symm]
    simp (disch := decide) only [bits, BitVec.extractLsb'_append_extractLsb'_eq_extractLsb']
  all_goals
    rw [← BitVec.ofNat_eq_ofNat, ← hzero]
    simp (disch := decide) only [bits, BitVec.extractLsb'_append_extractLsb'_eq_extractLsb']

/-- Settles O2: the opcode's byte and the operand bits are the word's. -/
theorem encodeWritesDecode : Obligations.EncodeWritesDecode := by
  intro w i h
  obtain ⟨op, hcode, hzero, rfl⟩ := decode_eq_ok h
  rw [encode, operandBits_build hzero, build_opcode, ← hcode, bits, bits,
    BitVec.extractLsb'_append_extractLsb'_eq_extractLsb' (by decide)]
  exact BitVec.extractLsb'_eq_self

namespace Machine

section DecodeChecks

variable {s : State}

/-- With no input queued and a command running the step runs what the latched word decodes to (R22). -/
theorem step_of_decode_ok {i : Instr} (hseq : s.seq ≠ .idle) (hin : s.hostIn = []) (hdec : decode s.cmdL = .ok i) :
    step s = exec i s := by
  simp [step_of_no_input hin, engineStep, hseq, hdec]

theorem step_of_decode_error {e : DecodeError} (hseq : s.seq ≠ .idle) (hin : s.hostIn = []) (hdec : decode s.cmdL = .error e) :
    step s = .next (raise (decodeErr e s) none s) := by
  simp [step_of_no_input hin, engineStep, hseq, hdec]

theorem ofCode_eq_none {c : Byte} (h : ∀ o : Opcode, c ≠ o.code) : Opcode.ofCode c = none := by
  rw [Option.eq_none_iff_forall_ne_some]
  exact fun o ho => h o (code_of_ofCode ho).symm

theorem decode_illegalOpcode {w : Word} (h : ∀ o : Opcode, bits w 24 8 ≠ o.code) : decode w = .error .illegalOpcode := by
  simp [decode, ofCode_eq_none h]

theorem decode_reservedBits {w : Word} {o : Opcode} (hcode : bits w 24 8 = o.code) (hbits : w &&& o.reservedZeroMask ≠ 0) :
    decode w = .error (.reservedBits o) := by
  rw [decode, hcode, Laws.ofCode_code]
  exact if_neg hbits

theorem tileSelOk_eq_false_iff {t : BitVec 3} : tileSelOk t = false ↔ 4 ≤ t.toNat := by
  simp [tileSelOk]

theorem onTile_of_uninitialised {t : BitVec 3} {rule : Converter → Fin 4 → Except Err State} (hinst : s.inst = none) :
    onTile s t rule = .error .notInitialized := by
  simp [onTile, initialised, hinst]

theorem onTile_of_bad_selector {t : BitVec 3} {rule : Converter → Fin 4 → Except Err State} (hinst : s.inst ≠ none)
    (ht : tileSelOk t = false) : onTile s t rule = .error .invalidArgument := by
  obtain ⟨c, hc⟩ := Option.ne_none_iff_exists'.mp hinst
  simp [onTile, initialised, oneTile, hc, tileOf_eq_none.mpr (tileSelOk_eq_false_iff.mp ht)]

/-- `NotInitialized` is every command's but INIT's (R26, R94). -/
theorem exec_of_uninitialised {i : Instr} (hi : i.opcode ≠ .init) (hinst : s.inst = none) :
    exec i s = .next (raise .notInitialized none s) := by
  cases i with
  | init => exact absurd rfl hi
  | restart k t x y =>
    change execRestart k t x y s = _
    simp [execRestart, hinst]
  | _ => exact congrArg (finish s) (onTile_of_uninitialised hinst)

theorem tileSelOk_eq_false_of_problem {t : BitVec 3} {p : FormProblem}
    (hp : (if tileSelOk t then none else some FormProblem.tileSelector) = some p) : tileSelOk t = false := by
  split at hp
  · cases hp
  · next h => exact Bool.eq_false_iff.mpr h

/-- Once the selector is known to be good or bad, one error is left for a rule that refuses its own code. -/
theorem onTile_of_refusing_rule {t : BitVec 3} {rule : Converter → Fin 4 → Except Err State} (hinst : s.inst ≠ none)
    (hrule : tileSelOk t = true → ∀ c n, rule c n = .error .invalidArgument) : onTile s t rule = .error .invalidArgument := by
  cases ht : tileSelOk t with
  | false => exact onTile_of_bad_selector hinst ht
  | true =>
    obtain ⟨c, hc⟩ := Option.ne_none_iff_exists'.mp hinst
    have hlt : t.toNat < 4 := by simpa [tileSelOk] using ht
    rw [onTile_of _ hc (tileOf_of_lt hlt), hrule ht]

/-- `InvalidArgument` is the error of every field that R94 refuses (R82, R85). -/
theorem exec_of_formProblem {i : Instr} {p : FormProblem} (hp : i.formProblem = some p) (hinst : s.inst ≠ none) :
    exec i s = .next (raise .invalidArgument none s) := by
  cases i with
  | init => cases hp
  | restart k t x y =>
    obtain ⟨c, hc⟩ := Option.ne_none_iff_exists'.mp hinst
    have ht : restartSelectorOk t = false := by
      by_contra h
      revert h hp
      simp only [Instr.formProblem, restartSelectorOk, allTiles, tileOf, tileSelOk]
      grind
    change execRestart k t x y s = _
    simp [execRestart, hc, ht]
  | resolvePair k t b mb cat =>
    refine congrArg (finish s) (onTile_of_refusing_rule hinst fun ht c n => ?_)
    obtain ⟨rfl, -⟩ : mb = 3#2 ∧ FormProblem.multiBandCode = p := by simpa [Instr.formProblem, ht] using hp
    rfl
  | setNyquist k t b z =>
    refine congrArg (finish s) (onTile_of_refusing_rule hinst fun ht c n => ?_)
    obtain ⟨rfl | rfl, -⟩ : (z = 0#2 ∨ z = 3#2) ∧ FormProblem.zoneCode = p := by simpa [Instr.formProblem, ht] using hp
    · rfl
    · rfl
  | _ => exact congrArg (finish s) (onTile_of_bad_selector hinst (tileSelOk_eq_false_of_problem hp))

/-- R94's selector and immediate checks, by the bits of the word: each clause of refused bits is a problem of the command read. -/
theorem formProblem_build_of_bad_tile {o : Opcode} {w : Word} (hinit : o ≠ .init)
    (ht : 4 ≤ (bits w 20 3).toNat) (hall : o = .restart → bits w 20 3 ≠ 7) :
    (build o w).formProblem = some .tileSelector := by
  have hbad : tileSelOk (bits w 20 3) = false := tileSelOk_eq_false_iff.mpr ht
  cases o <;> simp_all [build, Instr.formProblem, tileSelOf]

theorem selector_of_init {w : Word} (hzero : w &&& Opcode.reservedZeroMask .init = 0) : bits w 20 3 = 0 := by
  rw [and_reservedZeroMask_eq_zero_iff] at hzero
  have hlow : bits w 0 24 = 0 := hzero _ (List.mem_singleton_self _)
  have : bits w 20 3 = (bits w 0 24).extractLsb' 20 3 := (BitVec.extractLsb'_extractLsb'_of_le (by decide)).symm
  rw [this, hlow]
  rfl

/-- Settles O4. -/
theorem decodeChecksInOrder : Obligations.DecodeChecksInOrder := by
  rintro s w hseq hin rfl
  refine ⟨fun hcode => step_of_decode_error hseq hin (decode_illegalOpcode hcode),
    fun o hcode => ⟨?uninit, fun hready => ⟨?reserved, fun hzero => ?fields⟩⟩⟩
  case uninit =>
    intro ho hinst
    by_cases hzero : s.cmdL &&& o.reservedZeroMask = 0
    · rw [step_of_decode_ok hseq hin (decode_eq_ok_build hcode hzero)]
      exact exec_of_uninitialised (by rwa [build_opcode]) hinst
    · rw [step_of_decode_error hseq hin (decode_reservedBits hcode hzero)]
      simp [decodeErr, ho, State.initDone, hinst]
  case reserved =>
    intro hbits
    rw [step_of_decode_error hseq hin (decode_reservedBits hcode hbits)]
    rcases hready with rfl | hinst
    · rfl
    · simp [decodeErr, State.initDone, hinst]
  case fields =>
    rw [step_of_decode_ok hseq hin (decode_eq_ok_build hcode hzero)]
    have hrefuse (p : FormProblem) (hp : (build o s.cmdL).formProblem = some p) :
        exec (build o s.cmdL) s = .next (raise .invalidArgument none s) := by
      refine exec_of_formProblem hp (hready.resolve_left ?_)
      rintro rfl
      cases hp
    refine ⟨?reservedTile, ?allTiles, ?multiBand, ?zone, fun _ _ _ => rfl⟩
    case reservedTile =>
      intro ht
      have hge : 4 ≤ (bits s.cmdL 20 3).toNat := by rcases ht with h | h | h <;> rw [h] <;> decide
      have h7 : bits s.cmdL 20 3 ≠ 7 := by rcases ht with h | h | h <;> rw [h] <;> decide
      refine hrefuse _ (formProblem_build_of_bad_tile ?_ hge fun _ => h7)
      rintro rfl
      rw [selector_of_init hzero] at hge
      exact absurd hge (by decide)
    case allTiles =>
      intro ht ho
      refine hrefuse _ (formProblem_build_of_bad_tile ?_ (by rw [ht]; decide) fun h => absurd h ho)
      rintro rfl
      rw [selector_of_init hzero] at ht
      exact absurd ht (by decide)
    case multiBand =>
      rintro ht rfl hmb
      have hok : tileSelOk (bits s.cmdL 20 3) = true := by simpa [tileSelOk] using ht
      exact hrefuse .multiBandCode (by simp [build, Instr.formProblem, tileSelOf, hok, hmb])
    case zone =>
      rintro ht rfl hz
      have hok : tileSelOk (bits s.cmdL 20 3) = true := by simpa [tileSelOk] using ht
      exact hrefuse .zoneCode (by rcases hz with h | h <;> simp [build, Instr.formProblem, tileSelOf, hok, h])

/-- Settles O51: both are decode checks. -/
theorem restartDecodeErrors : Obligations.RestartDecodeErrors := by
  intro k tl x y s
  refine ⟨exec_of_uninitialised (i := .restart k tl x y) nofun, fun hinst htl => ?_⟩
  have hp : (Instr.restart k tl x y).formProblem = some .tileSelector := by rcases htl with rfl | rfl | rfl <;> rfl
  exact exec_of_formProblem hp hinst

/-- Settles O5: a queued input that is not due only has its gate counted. -/
theorem stepRunsDecodedCommand : Obligations.StepRunsDecodedCommand := by
  intro s i hseq hdec
  refine ⟨fun hin => step_of_decode_ok hseq hin hdec, fun n a rest hin => ?later, fun a rest hin hdone => ?waits⟩
  case later => simp [step, transition, turn, hin, engineStep, hseq, hdec]
  case waits => simp [step, transition, turn, hin, hdone, engineStep, hseq, hdec]

/-- An accepted word leaves IDLE (R24). -/
theorem accept_seq_ne_idle (w : Word) (s : State) : (accept w s).seq ≠ .idle := by
  rw [accept_eq]
  split <;> simp

/-- Settles O6: the placed word is latched, and nothing stands before it in the queue. -/
theorem placedCommandRunsNext : Obligations.PlacedCommandRunsNext := by
  intro s w i hdec
  have hword : decode (BitVec.ofNat 32 (w % 2 ^ 32)) = .ok i := by
    unfold decodeTableWord at hdec
    split at hdec
    · next h =>
      cases hdec
      exact h
    · cases hdec
  have hlatched : (s.withFetchWord 32 w).cmdL = BitVec.ofNat 32 (w % 2 ^ 32) := by
    change (accept _ s).cmdL = _
    rw [accept_eq]
    split <;> rfl
  exact step_of_decode_ok (accept_seq_ne_idle _ s) rfl (by rwa [hlatched])

end DecodeChecks
end Machine

end Sys2Proof
end

section
/-! PROOFS. The register-access port (20_memory.md), what posting an error writes (60_exceptions.md), and the accesses a step has
made. -/

namespace Sys2Proof.Machine

section Registers

variable {w n sh : Nat}

theorem getLsbD_regFieldRead (c : BitVec w) (j : Nat) :
    (regFieldRead n sh c).getLsbD j = (decide (j < n) && c.getLsbD (sh + j)) := by
  rw [regFieldRead, readMasked, BitVec.getLsbD_ushiftRight, BitVec.getLsbD_and, getLsbD_fieldMask]
  grind

theorem getLsbD_regFieldWrite (c v : BitVec w) (hfits : n + sh ≤ w) (j : Nat) :
    (regFieldWrite n sh c v).getLsbD j = if sh ≤ j ∧ j < sh + n then v.getLsbD (j - sh) else c.getLsbD j := by
  rw [regFieldWrite, clearAndSetMasked, BitVec.getLsbD_or, BitVec.getLsbD_and, BitVec.getLsbD_and, BitVec.getLsbD_not,
    BitVec.getLsbD_shiftLeft, getLsbD_fieldMask]
  by_cases hj : j < w
  · grind
  · have hc : c.getLsbD j = false := BitVec.getLsbD_of_ge _ _ (by omega)
    grind

/-- A field reads back the low bits of what was written to it (R63). -/
theorem regFieldRead_regFieldWrite_same (c v : BitVec w) (hfits : n + sh ≤ w) :
    regFieldRead n sh (regFieldWrite n sh c v) = (v.setWidth n).setWidth w := by
  apply BitVec.eq_of_getLsbD_eq
  intro j hj
  rw [getLsbD_regFieldRead, getLsbD_regFieldWrite _ _ hfits, BitVec.getLsbD_setWidth, BitVec.getLsbD_setWidth]
  grind

/-- A field that does not overlap the one written reads as before (R63). -/
theorem regFieldRead_regFieldWrite_other {n' sh' : Nat} (c v : BitVec w) (hfits : n + sh ≤ w)
    (hapart : sh + n ≤ sh' ∨ sh' + n' ≤ sh) : regFieldRead n' sh' (regFieldWrite n sh c v) = regFieldRead n' sh' c := by
  apply BitVec.eq_of_getLsbD_eq
  intro j _
  rw [getLsbD_regFieldRead, getLsbD_regFieldRead, getLsbD_regFieldWrite _ _ hfits]
  grind

end Registers

theorem toNat_lowBits (n : Nat) (v : Word) : (lowBits n v).toNat = v.toNat % 2 ^ n := by
  rw [lowBits, BitVec.toNat_ofNat]
  exact Nat.mod_eq_of_lt ((Nat.mod_le _ _).trans_lt v.isLt)

/-- Settles O18: the register forms bit by bit, and the machine's accesses by their laws. -/
theorem fieldPrimitivesOverRegisters : Obligations.FieldPrimitivesOverRegisters := by
  refine ⟨fun w c v x => ⟨rfl, BitVec.toNat_setWidth .., rfl, BitVec.setWidth_eq v, fun n sh hfits => ⟨?same, ?other⟩⟩,
    fun a v s hwf => ⟨fun hheld => ?held, fun a' hne => fieldValue_portWrite_other v s hwf hne,
      ⟨_, rfl, writtenConv_wf a v hwf⟩, rfl⟩⟩
  case same => exact regFieldRead_regFieldWrite_same c v hfits
  case other => exact fun _ _ _ hapart => regFieldRead_regFieldWrite_other c v hfits hapart
  case held => rw [fieldValue_portWrite_same a v s hheld, toNat_lowBits]

section Frames

variable {s u v : State}

theorem EngineFrame.refl (s : State) : EngineFrame s s where
  cmd := rfl
  arg0L := rfl
  arg0H := rfl
  arg1 := rfl
  arg2 := rfl
  cmdL := rfl
  argL := rfl
  idx := rfl
  lastIdx := rfl
  endEff := rfl
  retry := rfl
  hostIn := rfl
  hostOut := rfl
  tileIn := rfl
  draws := rfl
  inp := rfl
  par := rfl
  overrun := rfl

theorem EngineFrame.trans (hsu : EngineFrame s u) (huv : EngineFrame u v) : EngineFrame s v where
  cmd := huv.cmd.trans hsu.cmd
  arg0L := huv.arg0L.trans hsu.arg0L
  arg0H := huv.arg0H.trans hsu.arg0H
  arg1 := huv.arg1.trans hsu.arg1
  arg2 := huv.arg2.trans hsu.arg2
  cmdL := huv.cmdL.trans hsu.cmdL
  argL := huv.argL.trans hsu.argL
  idx := huv.idx.trans hsu.idx
  lastIdx := huv.lastIdx.trans hsu.lastIdx
  endEff := huv.endEff.trans hsu.endEff
  retry := huv.retry.trans hsu.retry
  hostIn := huv.hostIn.trans hsu.hostIn
  hostOut := huv.hostOut.trans hsu.hostOut
  tileIn := huv.tileIn.trans hsu.tileIn
  draws := huv.draws.trans hsu.draws
  inp := huv.inp.trans hsu.inp
  par := huv.par.trans hsu.par
  overrun := huv.overrun.trans hsu.overrun

/-- What a command's rule may change besides the engine's registers: the converter record, the converter fields and their record,
the results and the log; a state that differs from `s` in these only has its frame. -/
theorem EngineFrame.rule (s : State) (x : Option Converter) (m : Memory) (p : List PortEvent) (l : List LogEvent)
    (r0 r1 r2 r3 : Word) :
    EngineFrame s { s with inst := x, conv := m, port := p, log := l, res0 := r0, res1 := r1, res2 := r2, res3 := r3 } :=
  { EngineFrame.refl s with }

theorem EngineFrame.postOk (s : State) : EngineFrame s (postOk s) :=
  { EngineFrame.refl s with }

theorem EngineFrame.raise (e : Err) (x : Option FailInfo) (s : State) : EngineFrame s (raise e x s) :=
  { EngineFrame.refl s with }

theorem ResultsKept.refl (s : State) : ResultsKept s s :=
  ⟨rfl, rfl, rfl, rfl⟩

/-- Posting a success is R23's, with the overrun flag of the state the rule left. -/
theorem PostedOk.of_overrun (h : u.status.overrun = s.status.overrun) : PostedOk s (Machine.postOk u) :=
  ⟨rfl, rfl, rfl, rfl, rfl, rfl, rfl, rfl, h⟩

end Frames

/-- Settles O19. -/
theorem errorPosting : Obligations.ErrorPosting := by
  intro s e info
  refine ⟨rfl, rfl, rfl, rfl, ?code, ?plain, ?restart, ⟨errorEvent e info s.cmdL, rfl, rfl, rfl⟩, rfl, rfl, rfl, ⟨rfl, rfl, rfl, rfl⟩,
    .raise e info s⟩
  case code => cases e <;> rfl
  case plain =>
    rintro rfl
    exact ⟨rfl, rfl, rfl⟩
  case restart =>
    rintro ⟨tile, poll⟩ rfl
    refine ⟨rfl, rfl, ?_⟩
    match poll with
    | none | some .lock | some .clear => simp [raise, Poll.timeoutKind]

end Sys2Proof.Machine
end

section
/-! PROOFS. INIT and GET_STATUS (45_system.md), RESOLVE_PAIR and GET_PAIR (42_pairing.md section 1), the span of a write (R37). -/

namespace Sys2Proof.Machine

section Snapshot

theorem all_allKinds (p : Kind → Bool) : allKinds.all p = true ↔ ∀ k, p k = true := by
  refine ⟨fun h k => ?_, fun h => ?_⟩
  · exact List.all_eq_true.mp h k (by cases k <;> decide)
  · exact List.all_eq_true.mpr fun k _ => h k

theorem all_allFour (p : Fin 4 → Bool) : allFour.all p = true ↔ ∀ b, p b = true := by
  refine ⟨fun h b => ?_, fun h => ?_⟩
  · exact List.all_eq_true.mp h b (by revert b; decide)
  · exact List.all_eq_true.mpr fun b _ => h b

/-- The mixer invariant as the checks compute it (R35(c), R193, R241(d)). -/
theorem type_off_beq_mode_off {ty : MixType} {md : MixMode} :
    ((ty == .off) == (md == .off)) = true ↔ (ty = .off ↔ md = .off) := by
  rw [beq_iff_eq, Bool.eq_iff_iff, beq_iff_eq, beq_iff_eq]

theorem validTile_iff {on : Bool} {r : TileRec} :
    validTile on r = true ↔ r.pwr ≤ 15 ∧ (on = true → 1 ≤ r.fs ∧ r.fs ≤ 2 ^ 47 - 1) := by
  have hon : (!on || (decide (1 ≤ r.fs) && decide (r.fs ≤ 2 ^ 47 - 1))) = true ↔
      (on = true → 1 ≤ r.fs ∧ r.fs ≤ 2 ^ 47 - 1) := by cases on <;> simp
  rw [validTile, Bool.and_eq_true, hon, decide_eq_true_iff]
  exact and_comm

theorem validBlk_iff {k : Kind} {r : SnapBlk} :
    validBlk k r = true ↔
      (r.mix.type = .off ↔ r.mix.mode = .off) ∧ r.rateLive ∈ factors ∧ r.rateObs ∈ factors ∧ (k = .adc → r.dpMode = .normal) := by
  have hkind : (k == .dac || r.dpMode == .normal) = true ↔ (k = .adc → r.dpMode = .normal) := by cases k <;> simp
  simp only [validBlk, Bool.and_eq_true, hkind, type_off_beq_mode_off, List.contains_iff_mem, and_assoc]

theorem validAna_iff {k : Kind} {r : AnaRec} : validAna k r = true ↔ (k = .dac → r.cal = .mode2) := by
  cases k <;> simp [validAna]

/-- `VALID(S)` item by item (R241). -/
theorem validSnapshot_iff {i : Inputs} :
    validSnapshot i = true ↔
      1 ≤ i.snapshot.gen ∧ i.snapshot.gen ≤ 15 ∧ i.snapshot.badEnum = false ∧
      (∀ k n, ((i.snapshot.tile.get k).get n).pwr ≤ 15 ∧
        (i.tileOn k n = true → 1 ≤ ((i.snapshot.tile.get k).get n).fs ∧ ((i.snapshot.tile.get k).get n).fs ≤ 2 ^ 47 - 1)) ∧
      ∀ k n b,
        ((((i.snapshot.blk.get k).get n).get b).mix.type = .off ↔ (((i.snapshot.blk.get k).get n).get b).mix.mode = .off) ∧
        (((i.snapshot.blk.get k).get n).get b).rateLive ∈ factors ∧ (((i.snapshot.blk.get k).get n).get b).rateObs ∈ factors ∧
        (k = .adc → (((i.snapshot.blk.get k).get n).get b).dpMode = .normal) ∧
        (k = .dac → (((i.snapshot.ana.get k).get n).get b).cal = .mode2) := by
  simp only [validSnapshot, Bool.and_eq_true, all_allKinds, all_allFour, validTile_iff, validBlk_iff, validAna_iff, decide_eq_true_eq,
    Bool.not_eq_true', forall_and, and_assoc]

/-- Settles O24: the items are `validSnapshot_iff`'s, and INIT checks nothing else. -/
theorem snapshotValidity : Obligations.SnapshotValidity := by
  intro s
  refine ⟨validSnapshot_iff, fun hbad => ⟨_, ?_, rfl, rfl, rfl⟩⟩
  change execInit s = _
  simp [execInit, hbad]

/-- The block of the new record, by the fields of the snapshot's (R242). -/
theorem initConverter_blkAt (i : Inputs) (k : Kind) (n b : Fin 4) : (initConverter i).blkAt k n b = initBlk i k n b := by
  simp [initConverter, Converter.blkAt]

/-- R141's table as one condition. -/
theorem category_eq (k : Kind) (md : MixMode) :
    category k md = if md = .c2c ∨ (k = .adc ∧ md = .r2c) ∨ (k = .dac ∧ md = .c2r) then .iq else .real := by
  cases md <;> cases k <;> rfl

theorem exec_init_of_valid {s : State} (hvalid : validSnapshot s.inp = true) :
    exec .init s = .next (postOk { s with inst := some (initConverter s.inp) }) := by
  change execInit s = _
  simp [execInit, hvalid]

/-- Settles O23. -/
theorem initLoadsSnapshot : Obligations.InitLoadsSnapshot := by
  intro s hvalid
  refine ⟨_, initConverter s.inp, exec_init_of_valid hvalid, .of_overrun rfl, (EngineFrame.rule s ..).trans (.postOk _),
    ⟨rfl, rfl, rfl, rfl⟩, rfl, rfl, rfl, rfl, rfl, fun _ _ => rfl, fun _ _ _ => rfl, fun k n b => ?_, fun k n b => ?_⟩
  · rw [initConverter_blkAt]
    exact ⟨rfl, rfl, rfl, rfl, rfl⟩
  · rw [initConverter_blkAt, ← category_eq]
    rfl

end Snapshot

section Status

variable {k : Kind} {tl : BitVec 3} {n b : Fin 4} {s : State} {c : Converter}

theorem tileOf_of_toNat (htl : tl.toNat = n.val) : tileOf tl = some n := by
  simp [tileOf, htl]

theorem ofBool_beq_eq_one_iff {α : Type} [DecidableEq α] (x y : α) : BitVec.ofBool (x == y) = 1#1 ↔ x = y := by
  rw [← beq_iff_eq (a := x)]
  cases x == y <;> decide

/-- The status word's fields at their bits (R247). -/
theorem blockStatusWord_layout (c : Converter) (k : Kind) (n b : Fin 4) (s : State) :
    (blockStatusWord c k n b s).extractLsb' 0 1 = BitVec.ofBool (s.inp.blockOn k n b) ∧
    (blockStatusWord c k n b s).extractLsb' 1 1 = BitVec.ofBool (s.inp.pathOn k n b) ∧
    (blockStatusWord c k n b s).extractLsb' 2 1 = BitVec.ofBool (s.inp.hs k n) ∧
    ((blockStatusWord c k n b s).extractLsb' 3 1 = 1#1 ↔ (c.tileAt k n).clkSrc = .internalPll) ∧
    (blockStatusWord c k n b s).extractLsb' 4 4 = BitVec.ofNat 4 (c.tileAt k n).pwr ∧
    (blockStatusWord c k n b s).extractLsb' 8 6 =
      (fieldValue (.blk (.rateFactor .live) k n (phys s.inp c k n b)) s).extractLsb' 0 6 ∧
    (blockStatusWord c k n b s).extractLsb' 14 4 =
      (fieldValue (.blk (.fabricRate .live) k n (phys s.inp c k n b)) s).extractLsb' 0 4 ∧
    (blockStatusWord c k n b s).extractLsb' 18 2 = typeCode (c.blkAt k n b).mix.type ∧
    (blockStatusWord c k n b s).extractLsb' 20 3 = modeCode (c.blkAt k n b).mix.mode ∧
    ((blockStatusWord c k n b s).extractLsb' 23 1 = 1#1 ↔ (c.blkAt k n b).dtype = .iq) ∧
    (blockStatusWord c k n b s).extractLsb' 24 8 = 0#8 := by
  simp (disch := decide) only [blockStatusWord, flag, BitVec.extractLsb'_append_eq_of_add_le, BitVec.extractLsb'_append_eq_of_le]
  simp [ofBool_beq_eq_one_iff]

/-- The two halves of a 64-bit result make it up (R98). -/
theorem extractLsb'_halves_64 (x : BitVec 64) : x.extractLsb' 32 32 ++ x.extractLsb' 0 32 = x := by
  rw [BitVec.extractLsb'_append_extractLsb'_eq_extractLsb' (by decide)]
  exact BitVec.extractLsb'_eq_self

theorem exec_getStatus_of (hc : s.inst = some c) (htl : tileOf tl = some n) :
    exec (.getStatus k tl b) s = finish s (getStatusRule k b s c n) := by
  change finish s (onTile s tl _) = _
  rw [onTile_of _ hc htl]

/-- GET_STATUS's rule on an enabled tile: its two reads and its three results (R246). -/
theorem getStatusRule_of_on (hon : s.inp.tileOn k n = true) :
    getStatusRule k b s c n =
      .ok (postOk { portRead (.blk (.fabricRate .live) k n (phys s.inp c k n b))
          (portRead (.blk (.rateFactor .live) k n (phys s.inp c k n b)) s) with
        res0 := blockStatusWord c k n b s
        res1 := (BitVec.ofNat 64 (c.tileAt k n).fs).extractLsb' 0 32
        res2 := (BitVec.ofNat 64 (c.tileAt k n).fs).extractLsb' 32 32 }) := by
  simp [getStatusRule, hon]

/-- Settles O25. -/
theorem getStatusPosts : Obligations.GetStatusPosts := by
  rintro k tl n b p s c hc htl rfl
  rw [exec_getStatus_of hc (tileOf_of_toNat htl)]
  refine ⟨fun hon => ?on, fun hoff => by simp [getStatusRule, hoff]⟩
  case on =>
    rw [getStatusRule_of_on hon]
    obtain ⟨hblock, hpath, hhs, hclk, hpwr, hfactor, hwidth, htype, hmode, hdtype, hzero⟩ := blockStatusWord_layout c k n b s
    exact ⟨_, rfl, .of_overrun rfl, (EngineFrame.rule s ..).trans (.postOk _), rfl, rfl, rfl, rfl, hblock, hpath, hhs, hclk, hpwr,
      hfactor, hwidth, htype, hmode, hdtype, hzero, extractLsb'_halves_64 _, by simp⟩

end Status

section Pairs

variable {k : Kind} {tl : BitVec 3} {n b : Fin 4} {s : State} {c : Converter}

theorem exec_resolvePair_of {code : BitVec 2} {mb : MultiBand} {cat : Category} (hc : s.inst = some c) (htl : tileOf tl = some n)
    (hmb : multiBandOf code = some mb) :
    exec (.resolvePair k tl b code cat) s =
      .next (postOk { s with
        inst := some (c.setBlk k n b { c.blkAt k n b with
          connI := (pair cat mb b (slices s.inp k n)).1, connQ := (pair cat mb b (slices s.inp k n)).2 })
        res0 := pairWord (pair cat mb b (slices s.inp k n)) }) := by
  change finish s (onTile s tl _) = _
  rw [onTile_of _ hc htl, resolvePairRule, hmb]
  rfl

theorem pairWord_layout (p : Option (Fin 4) × Option (Fin 4)) :
    (pairWord p).extractLsb' 0 8 = connByte p.1 ∧ (pairWord p).extractLsb' 8 8 = connByte p.2 ∧
      (pairWord p).extractLsb' 16 16 = 0#16 := by
  simp (disch := decide) only [pairWord, BitVec.extractLsb'_append_eq_of_add_le, BitVec.extractLsb'_append_eq_of_le]
  simp

/-- Settles O28. -/
theorem resolvePairWritesOnePair : Obligations.ResolvePairWritesOnePair := by
  intro k tl n b code mb cat s c hc htl hcode
  have hmb : multiBandOf code = some mb := by rcases hcode with ⟨rfl, rfl⟩ | ⟨rfl, rfl⟩ | ⟨rfl, rfl⟩ <;> rfl
  obtain ⟨hconnI, hconnQ, hzero⟩ := pairWord_layout (pair cat mb b (slices s.inp k n))
  refine ⟨_, _, exec_resolvePair_of hc (tileOf_of_toNat htl) hmb, .of_overrun rfl, (EngineFrame.rule s ..).trans (.postOk _), rfl, ?_⟩
  have hsame := setBlk_blkAt c k n b { c.blkAt k n b with
    connI := (pair cat mb b (slices s.inp k n)).1, connQ := (pair cat mb b (slices s.inp k n)).2 } k n b
  rw [if_pos ⟨rfl, rfl, rfl⟩] at hsame
  rw [hsame]
  exact ⟨rfl, rfl, rfl, rfl, rfl, rfl, fun k' n' b' hne => by rw [setBlk_blkAt, if_neg hne], rfl, fun _ _ => rfl, fun _ _ _ => rfl,
    hconnI, hconnQ, hzero, rfl, rfl, rfl, rfl, rfl, rfl⟩

theorem exec_getPair_of (hc : s.inst = some c) (htl : tileOf tl = some n) :
    exec (.getPair k tl b) s =
      .next (postOk { s with res0 := pairWord ((c.blkAt k n b).connI, (c.blkAt k n b).connQ) }) := by
  change finish s (onTile s tl _) = _
  rw [onTile_of _ hc htl]
  rfl

/-- Settles O29. -/
theorem getPairPosts : Obligations.GetPairPosts := by
  intro k tl n b s c hc htl
  obtain ⟨hconnI, hconnQ, hzero⟩ := pairWord_layout ((c.blkAt k n b).connI, (c.blkAt k n b).connQ)
  refine ⟨_, exec_getPair_of hc (tileOf_of_toNat htl), .of_overrun rfl, (EngineFrame.rule s ..).trans (.postOk _),
    fun i hi => hconnI.trans ?_, fun hi => hconnI.trans ?_, fun i hi => hconnQ.trans ?_, fun hi => hconnQ.trans ?_, hzero,
    rfl, rfl, rfl, rfl,
    rfl, rfl, rfl⟩ <;>
    rw [hi] <;> rfl

end Pairs

/-- R37's row of an odd physical block on a high-speed tile, and of an even one. -/
theorem span_of_hs {i : Inputs} {c : Converter} {k : Kind} {t b : Fin 4} (hhs : i.hs k t = true) :
    span i c k t b = if (phys i c k t b).val % 2 = 0 then [phys i c k t b, phys i c k t b + 1] else [phys i c k t b] := by
  simp [span, hhs]

/-- Settles O31. -/
theorem writeSpan : Obligations.WriteSpan := by
  intro i c k t b
  refine ⟨span_of_standard, fun hhs hp => ?_, fun hhs hp => ?_, fun hhs hp => ?_⟩
  · rw [span_of_hs hhs, hp]
    rfl
  · rw [span_of_hs hhs, hp]
    rfl
  · rw [span_of_hs hhs]
    rcases hp with hp | hp <;> rw [hp] <;> rfl

end Sys2Proof.Machine
end

section
/-! PROOFS. The rate-factor engine's and the Nyquist zone's commands: their errors in order, what they write and what they post
(43_rate_fifo.md, 44_mixer_nco.md section 3). -/

namespace Sys2Proof.Machine

/-- `u` is `s` but for the converter record, the converter fields and the record of accesses. -/
def OnlyConverter (s u : State) : Prop := ∃ x m p, u = { s with inst := x, conv := m, port := p }

namespace OnlyConverter

variable {s u v : State}

theorem trans (hsu : OnlyConverter s u) (huv : OnlyConverter u v) : OnlyConverter s v := by
  obtain ⟨_, _, _, rfl⟩ := hsu
  obtain ⟨x, m, p, rfl⟩ := huv
  exact ⟨x, m, p, rfl⟩

theorem portWrites (ws : List (FieldAddr × Word)) (s : State) : OnlyConverter s (portWrites ws s) :=
  ⟨s.inst, _, _, portWrites_eq ws s⟩

theorem fifoRecompute (c : Converter) (k : Kind) (t b : Fin 4) (ch : Channel) (s : State) :
    OnlyConverter s (fifoRecompute c k t b ch s) :=
  ⟨s.inst, _, _, fifoRecompute_eq c k t b ch s⟩

theorem withInst (x : Option Converter) (s : State) : OnlyConverter s { s with inst := x } :=
  ⟨x, s.conv, s.port, rfl⟩

theorem frame (h : OnlyConverter s u) : EngineFrame s u := by
  obtain ⟨x, m, p, rfl⟩ := h
  exact .rule s ..

theorem results (h : OnlyConverter s u) : ResultsKept s u := by
  obtain ⟨_, _, _, rfl⟩ := h
  exact ⟨rfl, rfl, rfl, rfl⟩

theorem log (h : OnlyConverter s u) : u.log = s.log := by
  obtain ⟨_, _, _, rfl⟩ := h
  rfl

/-- Posting a success over such a state: R23's posting, and the frame of every command. -/
theorem posted (h : OnlyConverter s u) :
    PostedOk s (postOk u) ∧ EngineFrame s (postOk u) ∧ ResultsKept s (postOk u) ∧ (postOk u).log = s.log :=
  ⟨.of_overrun h.frame.overrun, h.frame.trans (.postOk u), ⟨h.results.res0, h.results.res1, h.results.res2, h.results.res3⟩, h.log⟩

end OnlyConverter

section Availability

variable {k : Kind} {tl : BitVec 3} {n b : Fin 4} {s : State} {c : Converter} {e : Err}

theorem available_of_tile_off (htile : s.inp.tileOn k n = false) : available s.inp k n b = .error .tileUnavailable := by
  simp [available, htile]

theorem available_of_block_off (htile : s.inp.tileOn k n = true) (hblock : s.inp.blockOn k n b = false) :
    available s.inp k n b = .error .blockUnavailable := by
  simp [available, htile, hblock]

theorem available_of_path_off (htile : s.inp.tileOn k n = true) (hblock : s.inp.blockOn k n b = true)
    (hpath : s.inp.pathOn k n b = false) : available s.inp k n b = .error .digitalPathDisabled := by
  simp [available, htile, hblock, hpath]

theorem onBlock_of_unavailable {rule : Converter → Fin 4 → Except Err State} (hc : s.inst = some c) (htl : tileOf tl = some n)
    (havail : available s.inp k n b = .error e) : onBlock s k tl b rule = .error e := by
  simp [onBlock, onTile_of _ hc htl, havail]

/-- The six per-block commands, with the zone codes that pass R94. -/
def isPerBlock (k : Kind) (tl : BitVec 3) (b : Fin 4) (i : Instr) : Prop :=
  (∃ ch f, i = .setRate k tl b ch f) ∨ (∃ ch, i = .getRate k tl b ch) ∨ i = .setMixer k tl b ∨ i = .getMixer k tl b ∨
    i = .setNyquist k tl b 1 ∨ i = .setNyquist k tl b 2 ∨ i = .getNyquist k tl b

/-- The availability error of any of the six is its outcome. -/
theorem exec_of_unavailable {i : Instr} (hi : isPerBlock k tl b i) (hc : s.inst = some c) (htl : tileOf tl = some n)
    (havail : available s.inp k n b = .error e) : exec i s = .next (raise e none s) := by
  have hrule (rule : Converter → Fin 4 → Except Err State) : finish s (onBlock s k tl b rule) = .next (raise e none s) := by
    rw [onBlock_of_unavailable hc htl havail, finish_error]
  have hzone (z : BitVec 2) (zone : Zone) (hz : zoneOf z = some zone) :
      exec (.setNyquist k tl b z) s = .next (raise e none s) := by
    change finish s (onTile s tl _) = _
    rw [onTile_of _ hc htl, setNyquistRule, hz, havail]
    rfl
  rcases hi with ⟨ch, f, rfl⟩ | ⟨ch, rfl⟩ | rfl | rfl | rfl | rfl | rfl
  · exact hrule _
  · exact hrule _
  · exact hrule _
  · exact hrule _
  · exact hzone 1 .odd rfl
  · exact hzone 2 .even rfl
  · exact hrule _

theorem channelOk_iff {ch : Channel} {g : Nat} : channelOk k ch g = true ↔ (ch = .obs → k = .adc ∧ 3 ≤ g) := by
  cases ch <;> simp [channelOk]

theorem channelOk_eq_false {ch : Channel} {g : Nat} (h : ch = .obs ∧ (k = .dac ∨ g < 3)) : channelOk k ch g = false := by
  obtain ⟨rfl, rfl | hg⟩ := h
  · rfl
  · simp [channelOk, Nat.not_le.mpr hg]

theorem exec_setRate_of_available {ch : Channel} {f : BitVec 6} (hc : s.inst = some c) (htl : tileOf tl = some n)
    (havail : available s.inp k n b = .ok ()) : exec (.setRate k tl b ch f) s = finish s (setRateRule k b ch f s c n) := by
  change finish s (onBlock s k tl b _) = _
  rw [onBlock_of _ hc htl havail]

theorem exec_getRate_of_available {ch : Channel} (hc : s.inst = some c) (htl : tileOf tl = some n)
    (havail : available s.inp k n b = .ok ()) : exec (.getRate k tl b ch) s = finish s (getRateRule k b ch s c n) := by
  change finish s (onBlock s k tl b _) = _
  rw [onBlock_of _ hc htl havail]

/-- R160's set as the statements write it. -/
theorem legalFactor_eq_false {f g : Nat}
    (h : f ∉ [0, 1, 2, 3, 4, 5, 6, 8, 10, 12, 16, 20, 24, 40] ∨ (g < 3 ∧ f ∉ [0, 1, 2, 4, 8])) : legalFactor f g = false := by
  rw [Bool.eq_false_iff, Ne, legalFactor_iff]
  rintro ⟨hmem, hgen⟩
  rcases h with h | ⟨hg, h⟩
  · exact h hmem
  · exact h (hgen.resolve_left (by omega))

/-- Settles O36. -/
theorem perBlockErrorsInOrder : Obligations.PerBlockErrorsInOrder := by
  intro k tl n b s c hc htl
  have htile := tileOf_of_toNat htl
  refine ⟨fun i hi => ⟨fun h => exec_of_unavailable hi hc htile (available_of_tile_off h),
      fun ht h => exec_of_unavailable hi hc htile (available_of_block_off ht h),
      fun ht hb h => exec_of_unavailable hi hc htile (available_of_path_off ht hb h)⟩,
    fun ht hb hp ch factor => ?rules⟩
  case rules =>
    have havail := available_ok.mpr ⟨ht, hb, hp⟩
    rw [exec_setRate_of_available hc htile havail, exec_getRate_of_available hc htile havail]
    refine ⟨fun hch => ?channel, fun hch hf => ?factor⟩
    case channel =>
      have hbad := channelOk_eq_false hch
      exact ⟨by simp [setRateRule, hbad], by simp [getRateRule, hbad]⟩
    case factor => simp [setRateRule, channelOk_iff.mpr hch, legalFactor_eq_false hf]

end Availability

section GetRate

variable {k : Kind} {tl : BitVec 3} {n b : Fin 4} {ch : Channel} {s : State} {c : Converter}

theorem getRateRule_of_decode {f : Nat} (hch : channelOk k ch c.gen = true)
    (hdec : factorDecode (fieldValue (.blk (.rateFactor ch) k n (phys s.inp c k n b)) s).toNat c.gen = some f) :
    getRateRule k b ch s c n =
      .ok (postOk { portRead (.blk (.rateFactor ch) k n (phys s.inp c k n b)) s with res0 := BitVec.ofNat 32 f }) := by
  simp [getRateRule, hch, hdec]

theorem getRateRule_of_no_decode (hch : channelOk k ch c.gen = true)
    (hdec : factorDecode (fieldValue (.blk (.rateFactor ch) k n (phys s.inp c k n b)) s).toNat c.gen = none) :
    getRateRule k b ch s c n =
      .ok (raise .inconsistentConfiguration none (portRead (.blk (.rateFactor ch) k n (phys s.inp c k n b)) s)) := by
  simp [getRateRule, hch, hdec]

/-- Settles O37. -/
theorem getRatePosts : Obligations.GetRatePosts := by
  rintro k tl n b ch s c x hc htl ht hb hp hch rfl
  rw [exec_getRate_of_available hc (tileOf_of_toNat htl) (available_ok.mpr ⟨ht, hb, hp⟩)]
  have hchannel := channelOk_iff.mpr hch
  refine ⟨fun f hdec => ?decodes, fun hdec => ?noDecode⟩
  case decodes =>
    rw [getRateRule_of_decode hchannel hdec]
    refine ⟨_, rfl, .of_overrun rfl, (EngineFrame.rule s ..).trans (.postOk _), rfl, rfl, rfl, rfl, rfl, rfl, rfl, ?_⟩
    simp
  case noDecode =>
    rw [getRateRule_of_no_decode hchannel hdec]
    exact ⟨_, rfl, rfl, rfl, rfl, rfl, rfl, rfl, rfl, rfl⟩

end GetRate

section SetRate

variable {k : Kind} {tl : BitVec 3} {n b : Fin 4} {ch : Channel} {s : State} {c : Converter} {f : Nat}

/-- Writing two lists is writing one after the other. -/
theorem portWrites_append (ws ws' : List (FieldAddr × Word)) (s : State) :
    portWrites (ws ++ ws') s = portWrites ws' (portWrites ws s) := by
  induction ws generalizing s with
  | nil => rfl
  | cons w rest ih => exact ih _

theorem spanWrites_events (g : BlockField) (v : Word) (k : Kind) (t : Fin 4) (ps : List (Fin 4)) :
    (spanWrites g v k t ps).map (fun w => PortEvent.write w.1 w.2) = ps.map fun p => .write (.blk g k t p) v := by
  simp [spanWrites]

/-- The accesses of the recomputation, by what the two fields hold (R168). -/
theorem fifoRecompute_port :
    (fifoRecompute c k n b ch s).port =
      s.port ++ recomputeAccesses s.par s.inp c k n b ch (fieldValue (.blk (.rateFactor ch) k n (phys s.inp c k n b)) s)
        (fieldValue (.blk .rateDtype k n (phys s.inp c k n b)) s) := by
  rw [fifoRecompute_eq]
  simp only [recomputeAccesses, recomputeReads, recomputeWrites, recomputedWidth, List.append_assoc, List.map_cons, List.map_nil]
  cases factorDecode (fieldValue (.blk (.rateFactor ch) k n (phys s.inp c k n b)) s).toNat c.gen with
  | none => rfl
  | some f => simp only [spanWrites_events]

/-- The recomputation writes the width over the span only. -/
theorem fieldValue_fifoRecompute_off_span {a : FieldAddr} (hwf : Memory.wf s.conv = true)
    (ha : ∀ p ∈ span s.inp c k n b, a ≠ .blk (.fabricRate ch) k n p) :
    fieldValue a (fifoRecompute c k n b ch s) = fieldValue a s := by
  unfold fifoRecompute recomputeWrites
  split
  · exact fieldValue_portReads _ _ s
  · rw [fieldValue_spanWrites_other (by rwa [portReads_conv]) ha, fieldValue_portReads]

/-- With a code that decodes the recomputation's width stands over the span, cut to its field. -/
theorem fieldValue_fabricRate_fifoRecompute {q : Fin 4} (hwf : Memory.wf s.conv = true)
    (hcode : factorDecode (fieldValue (.blk (.rateFactor ch) k n (phys s.inp c k n b)) s).toNat c.gen = some f)
    (hq : q ∈ span s.inp c k n b) :
    fieldValue (.blk (.fabricRate ch) k n q) (fifoRecompute c k n b ch s) =
      lowBits 4 (BitVec.ofNat 32
        (fifoWidth s.par f (dtypeOf (fieldValue (.blk .rateDtype k n (phys s.inp c k n b)) s)) (s.inp.hs k n))) := by
  rw [fifoRecompute_of_decode hcode, fieldValue_spanWrites_mem _ (by rwa [portReads_conv]) rfl hq]
  rfl

theorem onlyConverter_setRateEffect : OnlyConverter s (setRateEffect k n b ch f c s) :=
  (((OnlyConverter.portWrites ..).trans (.withInst ..)).trans (.fifoRecompute ..)).trans (.portWrites ..)

@[simp] theorem portWrites_inst (ws : List (FieldAddr × Word)) (s : State) : (portWrites ws s).inst = s.inst := by
  rw [portWrites_eq]

@[simp] theorem fifoRecompute_inst : (fifoRecompute c k n b ch s).inst = s.inst := by
  rw [fifoRecompute_eq]

@[simp] theorem fifoRecompute_inp : (fifoRecompute c k n b ch s).inp = s.inp := by
  rw [fifoRecompute_eq]

@[simp] theorem fifoRecompute_par : (fifoRecompute c k n b ch s).par = s.par := by
  rw [fifoRecompute_eq]

theorem setRateEffect_inst :
    (setRateEffect k n b ch f c s).inst = some (c.setBlk k n b ((c.blkAt k n b).setRate ch f)) := by
  rw [setRateEffect_eq, portWrites_inst, fifoRecompute_inst]
  rfl

/-- The clock-gating delay as R173 chooses it. -/
theorem cgDelayFor_eq (par : Params) (f : Nat) :
    cgDelayFor par f = if f ∈ [1, 2, 4, 8, 16] then par.cgDelayPow2 else par.cgDelayExt := by
  simp only [cgDelayFor, pow2Factors, List.contains_iff_mem]

theorem cgWrites_of {par : Params} {g : Nat} {ps : List (Fin 4)} (h : 3 ≤ g ∧ f ≠ 0) :
    cgWrites par g f k n ps = spanWrites .cgDelay (cgDelayFor par f) k n ps ++ spanWrites .cgSyncEn 1 k n ps :=
  if_pos h

theorem cgWrites_of_not {par : Params} {g : Nat} {ps : List (Fin 4)} (h : ¬(3 ≤ g ∧ f ≠ 0)) : cgWrites par g f k n ps = [] :=
  if_neg h

variable (hwf : Memory.wf s.conv = true)
include hwf

theorem recomputed_wf : Memory.wf (fifoRecompute c k n b ch (factorWritten k n b ch f c s)).conv = true :=
  fifoRecompute_wf (factorWritten_wf hwf)

theorem fieldValue_rateFactor_factorWritten {q : Fin 4} (hlegal : legalFactor f c.gen = true) (hq : q ∈ span s.inp c k n b) :
    fieldValue (.blk (.rateFactor ch) k n q) (factorWritten k n b ch f c s) = BitVec.ofNat 32 (factorCode f c.gen) := by
  rw [factorWritten, fieldValue_withInst, fieldValue_spanWrites_mem _ hwf rfl hq]
  exact lowBits_ofNat_of_lt (factorCode_lt_of_legal hlegal)

theorem fieldValue_rateFactor_setRateEffect {q : Fin 4} (hlegal : legalFactor f c.gen = true) (hq : q ∈ span s.inp c k n b) :
    fieldValue (.blk (.rateFactor ch) k n q) (setRateEffect k n b ch f c s) = BitVec.ofNat 32 (factorCode f c.gen) := by
  rw [setRateEffect_eq, fieldValue_cgWrites_other (recomputed_wf hwf) (by simp) (by simp),
    fieldValue_fifoRecompute_other (factorWritten_wf hwf) (by simp), fieldValue_rateFactor_factorWritten hwf hlegal hq]

/-- As `fieldValue_fabricRate_setRateEffect`, whatever the parameters: the width cut to its field. -/
theorem fieldValue_fabricRate_setRateEffect_cut {q : Fin 4} (hlegal : legalFactor f c.gen = true) (hq : q ∈ span s.inp c k n b) :
    fieldValue (.blk (.fabricRate ch) k n q) (setRateEffect k n b ch f c s) =
      lowBits 4 (BitVec.ofNat 32
        (fifoWidth s.par f (dtypeOf (fieldValue (.blk .rateDtype k n (phys s.inp c k n b)) s)) (s.inp.hs k n))) := by
  have hcode := factorDecode_factorWritten (k := k) (t := n) (b := b) (ch := ch) hwf hlegal
  rw [setRateEffect_eq, fieldValue_cgWrites_other (recomputed_wf hwf) (by simp) (by simp),
    fieldValue_fabricRate_fifoRecompute (f := f) (factorWritten_wf hwf) (by rwa [factorWritten_inp]) (by rwa [factorWritten_inp]),
    factorWritten_inp, factorWritten_par, fieldValue_rateDtype_factorWritten hwf]

/-- The clock gating over the span (R173). -/
theorem fieldValue_cg_setRateEffect {q : Fin 4} (hcg : 3 ≤ c.gen ∧ f ≠ 0) (hq : q ∈ span s.inp c k n b) :
    fieldValue (.blk .cgDelay k n q) (setRateEffect k n b ch f c s) = lowBits s.par.cgDelayBits (cgDelayFor s.par f) ∧
      fieldValue (.blk .cgSyncEn k n q) (setRateEffect k n b ch f c s) = 1 := by
  have hwf' := recomputed_wf (k := k) (n := n) (b := b) (ch := ch) (c := c) (f := f) hwf
  rw [setRateEffect_eq, cgWrites_of hcg, portWrites_append, fieldValue_spanWrites_other (portWrites_wf _ hwf') (by simp),
    fieldValue_spanWrites_mem _ hwf' rfl hq, fieldValue_spanWrites_mem _ (portWrites_wf _ hwf') rfl hq]
  refine ⟨?_, rfl⟩
  rw [fifoRecompute_par, factorWritten_par]
  rfl

theorem fieldsKept_setRateEffect :
    FieldsKept (fun a => ∃ p ∈ span s.inp c k n b, a = .blk (.rateFactor ch) k n p ∨ a = .blk (.fabricRate ch) k n p ∨
      ((3 ≤ c.gen ∧ f ≠ 0) ∧ (a = .blk .cgDelay k n p ∨ a = .blk .cgSyncEn k n p))) s (setRateEffect k n b ch f c s) := by
  intro a huntouched
  have hcg : fieldValue a (setRateEffect k n b ch f c s) =
      fieldValue a (fifoRecompute c k n b ch (factorWritten k n b ch f c s)) := by
    rw [setRateEffect_eq]
    by_cases h : 3 ≤ c.gen ∧ f ≠ 0
    · exact fieldValue_cgWrites_other (recomputed_wf hwf) (fun p hp ha => huntouched ⟨p, hp, .inr (.inr ⟨h, .inl ha⟩)⟩)
        fun p hp ha => huntouched ⟨p, hp, .inr (.inr ⟨h, .inr ha⟩)⟩
    · rw [cgWrites_of_not h]
      rfl
  rw [hcg, fieldValue_fifoRecompute_off_span (factorWritten_wf hwf), factorWritten, fieldValue_withInst,
    fieldValue_spanWrites_other hwf]
  · exact fun p hp ha => huntouched ⟨p, hp, .inl ha⟩
  · rw [factorWritten_inp]
    exact fun p hp ha => huntouched ⟨p, hp, .inr (.inl ha)⟩

/-- R164's accesses in order. -/
theorem setRateEffect_port (hlegal : legalFactor f c.gen = true) :
    (setRateEffect k n b ch f c s).port =
      s.port ++
        (span s.inp c k n b).map (fun p => .write (.blk (.rateFactor ch) k n p) (BitVec.ofNat 32 (factorCode f c.gen))) ++
        recomputeAccesses s.par s.inp c k n b ch (BitVec.ofNat 32 (factorCode f c.gen))
          (fieldValue (.blk .rateDtype k n (phys s.inp c k n b)) s) ++
        (if 3 ≤ c.gen ∧ f ≠ 0 then
          (span s.inp c k n b).map (fun p => .write (.blk .cgDelay k n p) (cgDelayFor s.par f)) ++
          (span s.inp c k n b).map (fun p => .write (.blk .cgSyncEn k n p) 1)
        else []) := by
  have hfirst : (factorWritten k n b ch f c s).port = s.port ++
      (span s.inp c k n b).map fun p => .write (.blk (.rateFactor ch) k n p) (BitVec.ofNat 32 (factorCode f c.gen)) := by
    change (portWrites _ s).port = _
    rw [portWrites_port, spanWrites_events]
  have hlast : (cgWrites s.par c.gen f k n (span s.inp c k n b)).map (fun w => PortEvent.write w.1 w.2) =
      if 3 ≤ c.gen ∧ f ≠ 0 then
        (span s.inp c k n b).map (fun p => .write (.blk .cgDelay k n p) (cgDelayFor s.par f)) ++
        (span s.inp c k n b).map (fun p => .write (.blk .cgSyncEn k n p) 1)
      else [] := by
    unfold cgWrites
    split
    · rw [List.map_append, spanWrites_events, spanWrites_events]
    · rfl
  rw [setRateEffect_eq, portWrites_port, hlast, fifoRecompute_port, hfirst, factorWritten_inp, factorWritten_par,
    fieldValue_rateDtype_factorWritten hwf, fieldValue_rateFactor_factorWritten hwf hlegal (phys_mem_span ..)]

omit hwf in
/-- SET_RATE with its checks passed leaves its effect, posted (R164). -/
theorem exec_setRate_of {factor : BitVec 6} (hc : s.inst = some c) (htl : tileOf tl = some n)
    (havail : available s.inp k n b = .ok ()) (hch : channelOk k ch c.gen = true) (hlegal : legalFactor factor.toNat c.gen = true) :
    exec (.setRate k tl b ch factor) s = .next (postOk (setRateEffect k n b ch factor.toNat c s)) := by
  rw [exec_setRate_of_available hc htl havail]
  simp [setRateRule, hch, hlegal]

end SetRate

theorem rate_setRate (r : BlkRec) (ch : Channel) (f : Nat) : (r.setRate ch f).rate ch = f := by
  cases ch <;> rfl

theorem ne_zero_iff_toNat_ne_zero {m : Nat} {x : BitVec m} : x ≠ 0 ↔ x.toNat ≠ 0 := by
  simp [BitVec.toNat_eq]

/-- Settles O34. -/
theorem setRateProgramsSpan : Obligations.SetRateProgramsSpan := by
  intro k tl n b ch factor s c hwf hc htl ht hb hp hch hlegal
  obtain ⟨hposted, hframe, hresults, hlog⟩ :=
    (onlyConverter_setRateEffect (k := k) (n := n) (b := b) (ch := ch) (f := factor.toNat) (c := c) (s := s)).posted
  refine ⟨_, _, exec_setRate_of hc (tileOf_of_toNat htl) (available_ok.mpr ⟨ht, hb, hp⟩) (channelOk_iff.mpr hch) hlegal,
    hposted, hframe, hresults, hlog, setRateEffect_inst, ?rate, rfl, ?fields, ?kept, ?port⟩
  case rate => rw [setBlk_blkAt, if_pos ⟨rfl, rfl, rfl⟩, rate_setRate]
  case fields =>
    intro p hp
    simp only [fieldValue_postOk]
    refine ⟨fieldValue_rateFactor_setRateEffect hwf hlegal hp, fieldValue_fabricRate_setRateEffect_cut hwf hlegal hp, fun hg hf => ?_⟩
    rw [← cgDelayFor_eq]
    exact fieldValue_cg_setRateEffect hwf ⟨hg, ne_zero_iff_toNat_ne_zero.mp hf⟩ hp
  case kept =>
    intro a huntouched
    simp only [ne_zero_iff_toNat_ne_zero] at huntouched
    rw [fieldValue_postOk]
    exact fieldsKept_setRateEffect hwf a huntouched
  case port =>
    simp only [ne_zero_iff_toNat_ne_zero, ← cgDelayFor_eq]
    exact setRateEffect_port hwf hlegal

section RoundTrip

variable {k : Kind} {tl : BitVec 3} {n b : Fin 4} {ch : Channel} {s t : State} {c : Converter}

/-- What a per-block command that succeeds found available. -/
theorem available_of_onBlock_eq_ok {rule : Converter → Fin 4 → Except Err State} (htl : tl.toNat = n.val)
    (hok : onBlock s k tl b rule = .ok t) : available s.inp k n b = .ok () := by
  rcases onBlock_cases s k tl b rule with ⟨e, herror⟩ | ⟨_, n', _, htile, havail, _⟩
  case inl => cases herror.symm.trans hok
  case inr =>
    obtain rfl : n' = n := Fin.ext ((tileOf_eq_some htile).symm.trans htl)
    exact havail

/-- A successful SET_RATE found its block available and its channel supported (R163, R164). -/
theorem setRate_success_checks {factor : BitVec 6} (hc : s.inst = some c) (htl : tl.toNat = n.val)
    (hexec : exec (.setRate k tl b ch factor) s = .next t) (herr : t.status.err = 0) :
    available s.inp k n b = .ok () ∧ channelOk k ch c.gen = true := by
  change execSetRate k tl b ch factor s = _ at hexec
  have hok := eq_ok_of_finish hexec herr
  have hrule : setRateRule k b ch factor s c n = .ok t := rule_of_onBlock_eq_ok hc htl hok
  refine ⟨available_of_onBlock_eq_ok htl hok, ?_⟩
  cases hch : channelOk k ch c.gen with
  | true => rfl
  | false => simp [setRateRule, hch] at hrule

/-- Settles O38: the field GET_RATE reads is the one SET_RATE wrote, and its code decodes to the factor. -/
theorem rateRoundTrip : Obligations.RateRoundTrip := by
  intro k tl n b ch factor s t u c d hwf hc htl hexec herr hd hgen hinp hphys hfield
  obtain ⟨hlegal, rfl⟩ := setRate_success hc htl hexec herr
  obtain ⟨havail, hch⟩ := setRate_success_checks hc htl hexec herr
  have hread : fieldValue (.blk (.rateFactor ch) k n (phys u.inp d k n b)) u = BitVec.ofNat 32 (factorCode factor.toNat c.gen) := by
    rw [hinp, hphys, hfield, fieldValue_postOk, fieldValue_rateFactor_setRateEffect hwf hlegal (phys_mem_span ..)]
  have hdec : factorDecode (fieldValue (.blk (.rateFactor ch) k n (phys u.inp d k n b)) u).toNat d.gen = some factor.toNat := by
    have hfits : factorCode factor.toNat c.gen < 2 ^ 6 := factorCode_lt_of_legal hlegal
    rw [hread, hgen, BitVec.toNat_ofNat, Nat.mod_eq_of_lt (hfits.trans (by decide)), factorDecode_factorCode hlegal]
  rw [exec_getRate_of_available hd (tileOf_of_toNat htl) (hinp ▸ havail), getRateRule_of_decode (hgen ▸ hch) hdec]
  exact ⟨_, rfl, rfl, rfl, rfl⟩

end RoundTrip

section Nyquist

variable {k : Kind} {n b : Fin 4} {z : Zone} {s : State} {c : Converter}

/-- R215's condition. -/
theorem zoneFlip_iff {par : Params} :
    zoneFlip par c k n b = true ↔ k = .adc ∧ c.gen ∈ par.zoneFlipGens ∧ (c.anaAt k n b).cal = .mode1 := by
  simp [zoneFlip, and_assoc]

/-- The bit of the hardware's zone: 0 exactly when the zone is EVEN and flipped, or ODD and not (R93, R214). -/
theorem zoneBit_hardwareZone {par : Params} :
    zoneBit (hardwareZone par c k n b z) = if z = .even ↔ zoneFlip par c k n b = true then 0 else 1 := by
  cases h : zoneFlip par c k n b <;> cases z <;> simp [hardwareZone, h, otherZone, zoneBit]

/-- The code of the reported zone: 1 exactly when the field holds EVEN and is flipped back, or ODD and is not (R93, R216). -/
theorem zoneCode_reportedZone :
    (zoneCode (reportedZone c k n b s)).setWidth 32 =
      if fieldValue (.blk .nyqZone k n (phys s.inp c k n b)) s = 1 ↔ zoneFlip s.par c k n b = true then 1 else 2 := by
  unfold reportedZone
  cases h : zoneFlip s.par c k n b <;> split <;> simp_all [otherZone, zoneCode]

theorem onlyConverter_setNyquistEffect : OnlyConverter s (setNyquistEffect k n b z c s) :=
  (OnlyConverter.withInst _ s).trans (.portWrites ..)

theorem setNyquistEffect_port :
    (setNyquistEffect k n b z c s).port =
      s.port ++ (span s.inp c k n b).map fun p => .write (.blk .nyqZone k n p) (zoneBit (hardwareZone s.par c k n b z)) := by
  rw [setNyquistEffect_eq, portWrites_port, spanWrites_events]

/-- Settles O48. -/
theorem setNyquistWritesZone : Obligations.SetNyquistWritesZone := by
  intro k tl n b code z s c hwf hc htl ht hb hp hcode
  have hz : zoneOf code = some z := by rcases hcode with ⟨rfl, rfl⟩ | ⟨rfl, rfl⟩ <;> rfl
  have hfield {p : Fin 4} (hp : p ∈ span s.inp c k n b) :
      fieldValue (.blk .nyqZone k n p) (postOk (setNyquistEffect k n b z c s)) = zoneBit (hardwareZone s.par c k n b z) := by
    rw [fieldValue_postOk, fieldValue_nyqZone_setNyquistEffect hwf hp]
  obtain ⟨hposted, hframe, hresults, hlog⟩ :=
    (onlyConverter_setNyquistEffect (k := k) (n := n) (b := b) (z := z) (c := c) (s := s)).posted
  refine ⟨_, _, exec_setNyquist_of hc (tileOf_of_toNat htl) hz (available_ok.mpr ⟨ht, hb, hp⟩), hposted, hframe, hresults, hlog,
    setNyquistEffect_inst, rfl, by rw [anaAt_zoneStored], ?fields, ?kept, ?port⟩
  case fields =>
    intro p hp
    rw [hfield hp, zoneBit_hardwareZone]
    simp only [zoneFlip_iff]
  case kept =>
    intro a huntouched
    rw [fieldValue_postOk, setNyquistEffect_eq, fieldValue_spanWrites_other (s := { s with inst := some (zoneStored k n b z c) }) hwf,
      fieldValue_withInst]
    exact fun p hp ha => huntouched ⟨p, hp, ha⟩
  case port =>
    refine setNyquistEffect_port.trans (congrArg (s.port ++ ·) (List.map_congr_left fun p hp => ?_))
    rw [hfield hp]

/-- Settles O49. -/
theorem getNyquistPosts : Obligations.GetNyquistPosts := by
  intro k tl n b s c hc htl ht hb hp
  refine ⟨_, exec_getNyquist_of hc (tileOf_of_toNat htl) (available_ok.mpr ⟨ht, hb, hp⟩), .of_overrun rfl,
    (EngineFrame.rule s ..).trans (.postOk _), rfl, rfl, rfl, ?zone, rfl, rfl, rfl, rfl⟩
  case zone =>
    refine zoneCode_reportedZone.trans ?_
    simp only [zoneFlip_iff]

end Nyquist

end Sys2Proof.Machine
end

section
/-! PROOFS. The host port: what a due access or reset does in its one step (10_state.md sections 1 and 2, 20_memory.md section 3,
70_reset_and_hazards.md section 1). -/

namespace Sys2Proof.Machine

section Due

variable {s : State} {rest : List HostEvent}

/-- A due input is taken from the queue and acted on (log entry 6). -/
theorem step_of_due {i : HostInput} (hin : s.hostIn = { gate := .after 0, input := i } :: rest) :
    step s = hostAct i { s with hostIn := rest } := by
  simp [step, transition, turn, hin]

/-- A due aligned 32-bit write writes its register (R20, R71). -/
theorem step_of_due_write {off : BitVec 6} {v : Word} (hin : s.hostIn = { gate := .after 0, input := .write .w32 off v } :: rest)
    (haligned : off.toNat % 4 = 0) : step s = .next (writeReg off v { s with hostIn := rest }) := by
  simp [step_of_due hin, hostAct, accessDefined, haligned]

/-- A due aligned 32-bit read appends its register's value to the read results (R20, R71). -/
theorem step_of_due_read {off : BitVec 6} (hin : s.hostIn = { gate := .after 0, input := .read .w32 off } :: rest)
    (haligned : off.toNat % 4 = 0) :
    step s = .next { s with hostIn := rest, hostOut := s.hostOut ++ [readReg off { s with hostIn := rest }] } := by
  simp [step_of_due hin, hostAct, accessDefined, haligned]

end Due

section Accept

variable {w : Word} {s : State}

theorem accept_of_walk (h : startsWalk w (latch w s) = true) : accept w s = startWalk (tileSelOf w) (latch w s) := by
  rw [accept_eq, if_pos h]

theorem accept_of_no_walk (h : ¬startsWalk w (latch w s) = true) : accept w s = { latch w s with seq := .exec } := by
  rw [accept_eq, if_neg h]

theorem walkRange_all_of {w : Word} (h : bits w 20 3 = 7) : walkRange (tileSelOf w) = (0, 3) := by
  rw [tileSelOf, h, walkRange_all]

theorem walkRange_one_of {w : Word} (h : (bits w 20 3).toNat < 4) :
    walkRange (tileSelOf w) = ((bits w 20 3).toNat, (bits w 20 3).toNat) :=
  walkRange_one h

/-- Settles O7: `startsWalk_word` says which words start a walk, and both ways of entering follow the one latching. -/
theorem acceptanceLatches : Obligations.AcceptanceLatches := by
  intro s w rest walks hin hwalks
  have hstarts : startsWalk w (latch w { s with hostIn := rest }) = true ↔ walks := (startsWalk_word ..).trans hwalks.symm
  rw [step_of_due_write hin rfl]
  refine ⟨fun hidle => ?accepted, fun hbusy => ?overrun⟩
  case accepted =>
    have hwrite : writeReg 0x00 w { s with hostIn := rest } = accept w { s with hostIn := rest } := by simp [writeReg, hidle]
    rw [hwrite]
    refine ⟨_, rfl, ?_⟩
    by_cases h : walks
    case pos =>
      rw [accept_of_walk (hstarts.mpr h)]
      refine ⟨rfl, rfl, rfl, rfl, rfl, rfl, rfl, rfl, fun _ => rfl, fun _ hall => ?_, fun _ hone => ?_, fun hn => absurd h hn, rfl, rfl,
        rfl, rfl, rfl, rfl, rfl, rfl, rfl, rfl, rfl, rfl, rfl, rfl, rfl, rfl, rfl⟩
      · simp [walkRange_all_of hall]
      · simp [walkRange_one_of hone]
    case neg =>
      rw [accept_of_no_walk (mt hstarts.mp h)]
      exact ⟨rfl, rfl, rfl, rfl, rfl, rfl, rfl, rfl, fun hw => absurd hw h, fun hw => absurd hw h, fun hw => absurd hw h,
        fun _ => ⟨rfl, rfl, rfl⟩, rfl, rfl, rfl, rfl, rfl, rfl, rfl, rfl, rfl, rfl, rfl, rfl, rfl, rfl, rfl, rfl, rfl⟩
  case overrun => simp [writeReg, hbusy]

end Accept

section Window

/-- The layout of `CAP` (R20). -/
theorem capWord_layout {s : State} {c : Converter} (hc : s.inst = some c) :
    (capWord s).extractLsb' 0 4 = BitVec.ofNat 4 c.gen ∧
    (∀ n : Fin 4, (capWord s).extractLsb' (4 + n.val) 1 = BitVec.ofBool (s.inp.hs .adc n)) ∧
    (capWord s).extractLsb' 8 24 = 0#24 := by
  simp only [capWord, hc]
  refine ⟨?_, fun n => ?_, ?_⟩
  · simp (disch := decide) only [BitVec.extractLsb'_append_eq_of_add_le, BitVec.extractLsb'_eq_self]
  · match n with
    | 0 | 1 | 2 | 3 =>
      simp (disch := decide) only [BitVec.extractLsb'_append_eq_of_add_le, BitVec.extractLsb'_append_eq_of_le]
      exact BitVec.extractLsb'_eq_self
  · simp (disch := decide) only [BitVec.extractLsb'_append_eq_of_le]
    exact BitVec.extractLsb'_eq_self

/-- An unlisted offset reads 0 (R20). -/
theorem readReg_unlisted {off : BitVec 6} (s : State) (h : 0x2C ≤ off.toNat) : readReg off s = 0 := by
  have hne (x : BitVec 6) (hx : x.toNat < 0x2C) : off ≠ x := by
    rintro rfl
    omega
  unfold readReg
  rw [if_neg (hne _ (by decide)), if_neg (hne _ (by decide)), if_neg (hne _ (by decide)), if_neg (hne _ (by decide)),
    if_neg (hne _ (by decide)), if_neg (hne _ (by decide)), if_neg (hne _ (by decide)), if_neg (hne _ (by decide)),
    if_neg (hne _ (by decide)), if_neg (hne _ (by decide)), if_neg (hne _ (by decide))]

/-- Settles O8. -/
theorem hostReadsWindow : Obligations.HostReadsWindow := by
  refine ⟨fun s => ⟨fun hnone => by simp [capWord, hnone], fun c hc => capWord_layout hc⟩, fun s off rest hin v hv => ?_⟩
  have haligned : off.toNat % 4 = 0 := by
    rcases hv with ⟨rfl, _⟩ | ⟨rfl, _⟩ | ⟨rfl, _⟩ | ⟨rfl, _⟩ | ⟨rfl, _⟩ | ⟨rfl, _⟩ | ⟨rfl, _⟩ | ⟨rfl, _⟩ | ⟨rfl, _⟩ | ⟨rfl, _⟩ |
      ⟨rfl, _⟩ | ⟨⟨h, _⟩, _⟩
    case inr.inr.inr.inr.inr.inr.inr.inr.inr.inr.inr => exact h
    all_goals rfl
  have hread : readReg off { s with hostIn := rest } = v := by
    rcases hv with ⟨rfl, rfl⟩ | ⟨rfl, rfl⟩ | ⟨rfl, rfl⟩ | ⟨rfl, rfl⟩ | ⟨rfl, rfl⟩ | ⟨rfl, rfl⟩ | ⟨rfl, rfl⟩ | ⟨rfl, rfl⟩ | ⟨rfl, rfl⟩ |
      ⟨rfl, rfl⟩ | ⟨rfl, rfl⟩ | ⟨⟨_, h⟩, rfl⟩
    case inr.inr.inr.inr.inr.inr.inr.inr.inr.inr.inr => exact readReg_unlisted _ h
    all_goals rfl
  rw [step_of_due_read hin haligned, hread]

/-- A write of a read-only or unlisted offset has no effect (R20). -/
theorem writeReg_readOnly {off : BitVec 6} (v : Word) (s : State) (h : off = 0x04 ∨ 0x18 ≤ off.toNat) : writeReg off v s = s := by
  have hne (x : BitVec 6) (h4 : x ≠ 0x04) (hx : x.toNat < 0x18) : off ≠ x := by
    rintro rfl
    rcases h with rfl | h
    · exact h4 rfl
    · omega
  unfold writeReg
  rw [if_neg (hne _ (by decide) (by decide)), if_neg (hne _ (by decide) (by decide)), if_neg (hne _ (by decide) (by decide)),
    if_neg (hne _ (by decide) (by decide)), if_neg (hne _ (by decide) (by decide))]

/-- Settles O9. -/
theorem hostWritesWindow : Obligations.HostWritesWindow := by
  intro s off v rest hin
  refine ⟨?arg0L, ?arg0H, ?arg1, ?arg2, ?others⟩
  case others =>
    intro h
    have haligned : off.toNat % 4 = 0 := by
      rcases h with rfl | ⟨h, _⟩
      · rfl
      · exact h
    rw [step_of_due_write hin haligned, writeReg_readOnly _ _ (h.imp_right And.right)]
  all_goals
    rintro rfl
    exact step_of_due_write hin rfl

/-- Settles O10. -/
theorem undefinedHostAccessRefused : Obligations.UndefinedHostAccessRefused := by
  intro s wd off v rest hbad hin
  have hundefined : accessDefined wd off = false := by
    rcases hbad with h | h <;> simp [accessDefined, h]
  rcases hin with hin | hin <;> simp [step_of_due hin, hostAct, hundefined]

/-- Settles O11. -/
theorem statusWordLayout : Obligations.StatusWordLayout := by
  intro s
  simp (disch := decide) only [statusWord, flag, State.initDone, BitVec.extractLsb'_append_eq_of_add_le,
    BitVec.extractLsb'_append_eq_of_le]
  simp

end Window

/-- Only `DONE` is set after a reset (R291). -/
theorem statusWord_engineReset (s : State) : statusWord (engineReset s) = 0x00000002 := by
  change statusWord State.reset = _
  rfl

/-- Settles O12: each piece of engine state is `State.reset`'s, and the rest is the state's own. -/
theorem engineResetIsOneStep : Obligations.EngineResetIsOneStep := by
  intro s rest hin
  refine ⟨engineReset { s with hostIn := rest }, step_of_due hin, ?_⟩
  exact ⟨rfl, statusWord_engineReset _, rfl, rfl, rfl, rfl, rfl, rfl, rfl, rfl, rfl, rfl, rfl, rfl, rfl, rfl, rfl, rfl, rfl, rfl, rfl,
    rfl, rfl, rfl, rfl, rfl, rfl, rfl, rfl⟩

/-- Settles O14. -/
theorem resetValues : Obligations.ResetValues :=
  ⟨rfl, rfl, rfl, rfl, rfl, rfl, rfl, rfl, rfl, rfl, rfl, rfl, rfl, rfl, rfl, rfl, rfl, rfl, rfl, rfl,
    fun a => lookup_none_of_wf_nil a.key⟩

end Sys2Proof.Machine
end

section
/-! PROOFS. The tile power-state sequencer (41_power_sequencer.md): the steps a walk can take, and what they change. -/

namespace Sys2Proof.Machine

section Steps

/-- The sequencer state of a poll, the field it samples and its budget (R112, R115, R116). -/
def Poll.seq : Poll → Seq
  | .lock => .rLock
  | .clear => .rClear

def Poll.field : Poll → TileField
  | .lock => .pllLocked
  | .clear => .restartGo

def Poll.budget (par : Params) : Poll → Nat
  | .lock => par.lockMaxRetries
  | .clear => par.clrMaxRetries

/-- The state after one sample of a poll: the answer used up, the read recorded. -/
def sampled (p : Poll) (k : Kind) (n : Fin 4) (s : State) : State :=
  { s with
    tileIn := s.tileIn.tail
    draws := if s.tileIn = [] then s.draws + 1 else s.draws
    port := s.port ++ [.read (.tile p.field k n) (if nextAnswer s then 1 else 0)] }

/-- The state a sample leaves that starts a wait. -/
def waiting (p : Poll) (k : Kind) (n : Fin 4) (s : State) : State :=
  { sampled p k n s with retry := s.retry + 1, timer := true, port := (sampled p k n s).port ++ [.wait] }

theorem poll_eq_sampled (p : Poll) (k : Kind) (n : Fin 4) (s : State) : poll p.field k n s = sampled p k n s := by
  rw [poll_eq, sampled]
  cases nextAnswer s <;> rfl

theorem pollAgain_of_budget {p : Poll} {k : Kind} {n : Fin 4} {s : State} (h : s.retry = p.budget s.par) :
    pollAgain p (p.budget s.par) n (sampled p k n s) = raise .timeout (some { tile := n, poll := some p }) (sampled p k n s) :=
  if_pos h

theorem pollAgain_of_not_budget {p : Poll} {k : Kind} {n : Fin 4} {s : State} (h : s.retry ≠ p.budget s.par) :
    pollAgain p (p.budget s.par) n (sampled p k n s) = waiting p k n s :=
  if_neg h

theorem walkLock_eq (k : Kind) (n : Fin 4) (s : State) :
    walkLock k n s =
      if nextAnswer s then { sampled .lock k n s with retry := 0, seq := .rClear }
      else pollAgain .lock (Poll.lock.budget s.par) n (sampled .lock k n s) := by
  rw [walkLock, show TileField.pllLocked = Poll.lock.field from rfl, poll_eq_sampled]
  rfl

theorem walkClear_eq (k : Kind) (c : Converter) (n : Fin 4) (s : State) :
    walkClear k c n s =
      if nextAnswer s = false then
        { sampled .clear k n s with
          inst := some (c.setTile k n { c.tileAt k n with pwr := s.endEff.toNat })
          idx := s.idx + 1
          seq := .rSelect }
      else pollAgain .clear (Poll.clear.budget s.par) n (sampled .clear k n s) := by
  rw [walkClear, show TileField.restartGo = Poll.clear.field from rfl, poll_eq_sampled]
  rfl

end Steps

section Equations

variable {s : State} {n : Fin 4} (k : Kind) (tl : BitVec 3) (x y : BitVec 4) (c : Converter)

theorem walkStep_of_timer (htimer : s.timer = true) : walkStep k tl x y c s = .next { s with timer := false } := by
  simp [walkStep, htimer]

theorem walkStep_of_start (htimer : s.timer = false) (hseq : s.seq = .idle ∨ s.seq = .exec) :
    walkStep k tl x y c s = .next (startWalk tl s) := by
  rcases hseq with hseq | hseq <;> simp [walkStep, htimer, hseq]

theorem walkStep_of_rSelect (htimer : s.timer = false) (hseq : s.seq = .rSelect) :
    walkStep k tl x y c s = .next (walkSelect s) := by
  simp [walkStep, htimer, hseq]

theorem walkStep_of_rCheck (htimer : s.timer = false) (hseq : s.seq = .rCheck) (hidx : s.idx = n.val) :
    walkStep k tl x y c s = .next (walkCheck k (allTiles tl) n s) := by
  simp [walkStep, htimer, hseq, atTile_of _ hidx]

theorem walkStep_of_rTrigger (htimer : s.timer = false) (hseq : s.seq = .rTrigger) (hidx : s.idx = n.val) :
    walkStep k tl x y c s = .next (walkTrigger k c n s) := by
  simp [walkStep, htimer, hseq, atTile_of _ hidx]

theorem walkStep_of_rLock (htimer : s.timer = false) (hseq : s.seq = .rLock) (hidx : s.idx = n.val) :
    walkStep k tl x y c s = .next (walkLock k n s) := by
  simp [walkStep, htimer, hseq, atTile_of _ hidx]

theorem walkStep_of_rClear (htimer : s.timer = false) (hseq : s.seq = .rClear) (hidx : s.idx = n.val) :
    walkStep k tl x y c s = .next (walkClear k c n s) := by
  simp [walkStep, htimer, hseq, atTile_of _ hidx]

theorem walkStep_of_posting (htimer : s.timer = false) (hseq : s.seq = .posting) :
    walkStep k tl x y c s = .next (postOk s) := by
  simp [walkStep, htimer, hseq]

end Equations

section Samples

theorem allTiles_of_lt {tl : BitVec 3} (h : tl.toNat < 4) : allTiles tl = false := by
  have : tl ≠ 7 := by
    rintro rfl
    exact absurd h (by decide)
  simpa [allTiles] using this

/-- Settles O52. -/
theorem walkSelectsAndChecks : Obligations.WalkSelectsAndChecks := by
  intro k tl x y s c hc htl htimer
  rw [exec_restart_of k x y hc htl]
  refine ⟨fun hseq hlast => ?past, fun hseq hlast => ?tile, fun n hseq hidx => ?check⟩
  case past => rw [walkStep_of_rSelect k tl x y c htimer hseq, walkSelect, if_pos hlast]
  case tile => rw [walkStep_of_rSelect k tl x y c htimer hseq, walkSelect, if_neg (by omega)]
  case check =>
    rw [walkStep_of_rCheck k tl x y c htimer hseq hidx]
    refine ⟨fun hon => by simp [walkCheck, hon], fun hoff hone => ?_, fun hoff hall => ?_⟩
    · rw [allTiles_of_lt hone]
      simp only [walkCheck, hoff]
      exact ⟨_, rfl, rfl, rfl, rfl, rfl, rfl, rfl, rfl, rfl, rfl, rfl⟩
    · subst hall
      simp only [walkCheck, hoff]
      exact ⟨_, rfl, rfl, rfl, rfl, rfl⟩

/-- Settles O54. -/
theorem walkTriggers : Obligations.WalkTriggers := by
  intro k tl x y n s c hc htl htimer hseq hidx
  rw [exec_restart_of k x y hc htl, walkStep_of_rTrigger k tl x y c htimer hseq hidx]
  have hstate : s.endEff.toNat = Config.stateMax ↔ s.endEff = 15 := by
    rw [Config.stateMax, ← BitVec.toNat_inj]
    rfl
  refine ⟨fun hlock => ?lock, fun hclear => ?clear⟩
  case lock =>
    rw [walkTrigger, if_pos ⟨hlock.1, hstate.mpr hlock.2⟩]
    rfl
  case clear =>
    have : ¬((c.tileAt k n).clkSrc = .internalPll ∧ s.endEff.toNat = Config.stateMax) := by
      rintro ⟨hpll, hend⟩
      rcases hclear with h | h
      · cases hpll.symm.trans h
      · exact h (hstate.mp hend)
    rw [walkTrigger, if_neg this]
    rfl

/-- Settles O55. -/
theorem lockPollSample : Obligations.LockPollSample := by
  rintro k tl x y n s c q hc htl htimer hseq hidx rfl
  rw [exec_restart_of k x y hc htl, walkStep_of_rLock k tl x y c htimer hseq hidx, walkLock_eq]
  by_cases hanswer : nextAnswer s = true
  · rw [if_pos hanswer, if_pos hanswer]
    rfl
  · rw [if_neg hanswer, if_neg hanswer]
    by_cases hretry : s.retry = s.par.lockMaxRetries
    · rw [if_pos hretry, pollAgain_of_budget hretry]
      rfl
    · rw [if_neg hretry, pollAgain_of_not_budget hretry]
      rfl

/-- Settles O56. -/
theorem clearPollSample : Obligations.ClearPollSample := by
  rintro k tl x y n s c q hc htl htimer hseq hidx rfl
  rw [exec_restart_of k x y hc htl, walkStep_of_rClear k tl x y c htimer hseq hidx, walkClear_eq]
  by_cases hanswer : nextAnswer s = false
  · rw [if_pos hanswer, if_pos hanswer]
    rfl
  · rw [if_neg hanswer, if_neg hanswer]
    by_cases hretry : s.retry = s.par.clrMaxRetries
    · rw [if_pos hretry, pollAgain_of_budget hretry]
      rfl
    · rw [if_neg hretry, pollAgain_of_not_budget hretry]
      rfl

/-- Settles O57. -/
theorem walkWaitsAndPosts : Obligations.WalkWaitsAndPosts := by
  intro k tl x y s c hc htl
  rw [exec_restart_of k x y hc htl]
  refine ⟨walkStep_of_timer k tl x y c, fun htimer hseq => ?_⟩
  exact ⟨_, walkStep_of_posting k tl x y c htimer hseq, .of_overrun rfl, .postOk s, ⟨rfl, rfl, rfl, rfl⟩, rfl, rfl, rfl, rfl⟩

end Samples

section Inversion

/-- What one step of a walk can be (R112): the state it leaves, with what held where it was taken. -/
inductive WalkStep (k : Kind) (tl : BitVec 3) (x y : BitVec 4) (c : Converter) (s : State) : State → Prop
  | wait (htimer : s.timer = true) : WalkStep k tl x y c s { s with timer := false }
  | start (htimer : s.timer = false) (hseq : s.seq = .idle ∨ s.seq = .exec) : WalkStep k tl x y c s (startWalk tl s)
  | past (htimer : s.timer = false) (hseq : s.seq = .rSelect) (hlast : s.lastIdx < s.idx) :
    WalkStep k tl x y c s { s with seq := .posting }
  | select (htimer : s.timer = false) (hseq : s.seq = .rSelect) (hlast : s.idx ≤ s.lastIdx) :
    WalkStep k tl x y c s { s with seq := .rCheck }
  | enabled (htimer : s.timer = false) (hseq : s.seq = .rCheck) : WalkStep k tl x y c s { s with seq := .rWrite }
  | unavailable (n : Fin 4) (htimer : s.timer = false) (hseq : s.seq = .rCheck) :
    WalkStep k tl x y c s (raise .tileUnavailable (some { tile := n, poll := none }) s)
  | skipped (e : LogEvent) (htimer : s.timer = false) (hseq : s.seq = .rCheck) :
    WalkStep k tl x y c s (emit e { s with idx := s.idx + 1, seq := .rSelect })
  | write (n : Fin 4) (htimer : s.timer = false) (hseq : s.seq = .rWrite) (hidx : s.idx = n.val) :
    WalkStep k tl x y c s (walkWrite k x y c n s)
  | trigger (n : Fin 4) (htimer : s.timer = false) (hseq : s.seq = .rTrigger) (hidx : s.idx = n.val) :
    WalkStep k tl x y c s (walkTrigger k c n s)
  | locked (n : Fin 4) (htimer : s.timer = false) (hseq : s.seq = .rLock) :
    WalkStep k tl x y c s { sampled .lock k n s with retry := 0, seq := .rClear }
  | cleared (n : Fin 4) (htimer : s.timer = false) (hseq : s.seq = .rClear) (hidx : s.idx = n.val) :
    WalkStep k tl x y c s
      { sampled .clear k n s with
        inst := some (c.setTile k n { c.tileAt k n with pwr := s.endEff.toNat })
        idx := s.idx + 1
        seq := .rSelect }
  | timeout (p : Poll) (n : Fin 4) (htimer : s.timer = false) (hseq : s.seq = p.seq) (hretry : s.retry = p.budget s.par) :
    WalkStep k tl x y c s (raise .timeout (some { tile := n, poll := some p }) (sampled p k n s))
  | again (p : Poll) (n : Fin 4) (htimer : s.timer = false) (hseq : s.seq = p.seq) (hretry : s.retry ≠ p.budget s.par) :
    WalkStep k tl x y c s (waiting p k n s)
  | posted (htimer : s.timer = false) (hseq : s.seq = .posting) : WalkStep k tl x y c s (postOk s)

variable {k : Kind} {tl : BitVec 3} {x y : BitVec 4} {c : Converter} {s t : State}

theorem pollAgain_cases (p : Poll) (n : Fin 4) (htimer : s.timer = false) (hseq : s.seq = p.seq) :
    WalkStep k tl x y c s (pollAgain p (p.budget s.par) n (sampled p k n s)) := by
  by_cases hretry : s.retry = p.budget s.par
  · rw [pollAgain_of_budget hretry]
    exact .timeout p n htimer hseq hretry
  · rw [pollAgain_of_not_budget hretry]
    exact .again p n htimer hseq hretry

/-- A walk step is one of these, or works on a tile whose index names none (log entry 19). -/
theorem walkStep_cases (k : Kind) (tl : BitVec 3) (x y : BitVec 4) (c : Converter) (s : State) :
    (∃ t, walkStep k tl x y c s = .next t ∧ WalkStep k tl x y c s t) ∨
      (s.seq.onTile = true ∧ 4 ≤ s.idx ∧ walkStep k tl x y c s = .fault .walkIndex) := by
  cases htimer : s.timer with
  | true => exact .inl ⟨_, walkStep_of_timer k tl x y c htimer, .wait htimer⟩
  | false =>
    have hfault (honTile : s.seq.onTile = true) (hidx : 4 ≤ s.idx) : walkStep k tl x y c s = .fault .walkIndex := by
      have hnone (f : Fin 4 → State) : atTile s f = .fault .walkIndex := by simp [atTile, walkTile, Nat.not_lt.mpr hidx]
      revert honTile
      cases hseq : s.seq <;> simp [Seq.onTile, walkStep, htimer, hseq, hnone]
    have hat (honTile : s.seq.onTile = true)
        (h : ∀ n : Fin 4, s.idx = n.val → ∃ t, walkStep k tl x y c s = .next t ∧ WalkStep k tl x y c s t) :
        (∃ t, walkStep k tl x y c s = .next t ∧ WalkStep k tl x y c s t) ∨
          (s.seq.onTile = true ∧ 4 ≤ s.idx ∧ walkStep k tl x y c s = .fault .walkIndex) := by
      by_cases hidx : s.idx < 4
      · exact .inl (h ⟨s.idx, hidx⟩ rfl)
      · exact .inr ⟨honTile, by omega, hfault honTile (by omega)⟩
    cases hseq : s.seq with
    | idle => exact .inl ⟨_, walkStep_of_start k tl x y c htimer (.inl hseq), .start htimer (.inl hseq)⟩
    | exec => exact .inl ⟨_, walkStep_of_start k tl x y c htimer (.inr hseq), .start htimer (.inr hseq)⟩
    | rSelect =>
      refine .inl ⟨_, walkStep_of_rSelect k tl x y c htimer hseq, ?_⟩
      unfold walkSelect
      split
      · next hlast => exact .past htimer hseq hlast
      · next hlast => exact .select htimer hseq (by omega)
    | posting => exact .inl ⟨_, walkStep_of_posting k tl x y c htimer hseq, .posted htimer hseq⟩
    | rCheck =>
      rw [← hseq]
      refine hat (by rw [hseq]; rfl) fun n hidx => ⟨_, walkStep_of_rCheck k tl x y c htimer hseq hidx, ?_⟩
      unfold walkCheck
      split
      · exact .enabled htimer hseq
      · split
        · exact .unavailable n htimer hseq
        · exact .skipped _ htimer hseq
    | rWrite =>
      rw [← hseq]
      exact hat (by rw [hseq]; rfl) fun n hidx => ⟨_, walkStep_of_rWrite k tl x y c htimer hseq hidx, .write n htimer hseq hidx⟩
    | rTrigger =>
      rw [← hseq]
      exact hat (by rw [hseq]; rfl) fun n hidx => ⟨_, walkStep_of_rTrigger k tl x y c htimer hseq hidx, .trigger n htimer hseq hidx⟩
    | rLock =>
      rw [← hseq]
      refine hat (by rw [hseq]; rfl) fun n hidx => ⟨_, walkStep_of_rLock k tl x y c htimer hseq hidx, ?_⟩
      rw [walkLock_eq]
      split
      · exact .locked n htimer hseq
      · exact pollAgain_cases .lock n htimer hseq
    | rClear =>
      rw [← hseq]
      refine hat (by rw [hseq]; rfl) fun n hidx => ⟨_, walkStep_of_rClear k tl x y c htimer hseq hidx, ?_⟩
      rw [walkClear_eq]
      split
      · exact .cleared n htimer hseq hidx
      · exact pollAgain_cases .clear n htimer hseq

/-- What RESTART's step can be: a decode error posted, a step of the walk, or the fault (R94, R110). -/
theorem exec_restart_cases (k : Kind) (tl : BitVec 3) (x y : BitVec 4) (s : State) :
    (∃ e, exec (.restart k tl x y) s = .next (raise e none s) ∧ e ≠ .unsupportedOnSiliconGeneration) ∨
    ∃ c, s.inst = some c ∧ restartSelectorOk tl = true ∧
      ((∃ t, exec (.restart k tl x y) s = .next t ∧ WalkStep k tl x y c s t) ∨
        (s.seq.onTile = true ∧ 4 ≤ s.idx ∧ exec (.restart k tl x y) s = .fault .walkIndex)) := by
  cases hinst : s.inst with
  | none => exact .inl ⟨.notInitialized, exec_of_uninitialised (i := .restart k tl x y) nofun hinst, nofun⟩
  | some c =>
    have hexec : exec (.restart k tl x y) s =
        if restartSelectorOk tl = false then .next (raise .invalidArgument none s) else walkStep k tl x y c s := by
      change execRestart k tl x y s = _
      simp [execRestart, hinst]
    cases hsel : restartSelectorOk tl with
    | false => exact .inl ⟨.invalidArgument, by simp [hexec, hsel], nofun⟩
    | true =>
      refine .inr ⟨c, rfl, rfl, ?_⟩
      rw [hexec, hsel]
      exact walkStep_cases k tl x y c s

/-- What no step of a walk changes outside the walk's own registers, the converter and the tiles' answers (R119, R130). -/
structure WalkFrame (s t : State) : Prop where
  cmd : t.cmd = s.cmd
  arg0L : t.arg0L = s.arg0L
  arg0H : t.arg0H = s.arg0H
  arg1 : t.arg1 = s.arg1
  arg2 : t.arg2 = s.arg2
  results : ResultsKept s t
  cmdL : t.cmdL = s.cmdL
  argL : t.argL = s.argL
  hostIn : t.hostIn = s.hostIn
  hostOut : t.hostOut = s.hostOut
  inp : t.inp = s.inp
  par : t.par = s.par
  overrun : t.status.overrun = s.status.overrun

theorem WalkFrame.raise (e : Err) (info : Option FailInfo) (s : State) : WalkFrame s (raise e info s) :=
  ⟨rfl, rfl, rfl, rfl, rfl, ⟨rfl, rfl, rfl, rfl⟩, rfl, rfl, rfl, rfl, rfl, rfl, rfl⟩

theorem WalkStep.frame (h : WalkStep k tl x y c s t) : WalkFrame s t := by
  cases h <;> exact ⟨rfl, rfl, rfl, rfl, rfl, ⟨rfl, rfl, rfl, rfl⟩, rfl, rfl, rfl, rfl, rfl, rfl, rfl⟩

/-- Only the write of the restart states changes a converter field (R114, R117). -/
theorem WalkStep.conv_eq (h : WalkStep k tl x y c s t) :
    t.conv = s.conv ∨ ∃ n : Fin 4, s.idx = n.val ∧ t = walkWrite k x y c n s := by
  cases h with
  | write n _ _ hidx => exact .inr ⟨n, hidx, rfl⟩
  | _ => exact .inl rfl

/-- Only the end of a clear poll changes the converter record, at the tile's power state (R116, R119). -/
theorem WalkStep.inst_eq (h : WalkStep k tl x y c s t) :
    t.inst = s.inst ∨ ∃ n : Fin 4, s.seq = .rClear ∧ s.idx = n.val ∧
      t.inst = some (c.setTile k n { c.tileAt k n with pwr := s.endEff.toNat }) := by
  cases h with
  | cleared n _ hseq hidx => exact .inr ⟨n, hseq, hidx, rfl⟩
  | _ => exact .inl rfl

theorem WalkStep.fieldsKept (hwf : Memory.wf s.conv = true) (h : WalkStep k tl x y c s t) :
    FieldsKept (fun a => ∃ n : Fin 4, s.idx = n.val ∧ (a = .tile .restartStart k n ∨ a = .tile .restartEnd k n)) s t := by
  intro a huntouched
  rcases h.conv_eq with hconv | ⟨n, hidx, rfl⟩
  · exact fieldValue_congr a (by rw [hconv]) h.frame.par
  · have hkept := fieldsKept_portWriteRestartState k n x (downgrade s.inp c k n y) hwf a fun ha => huntouched ⟨n, hidx, ha⟩
    exact (fieldValue_congr a rfl rfl).trans hkept

/-- Settles O58. -/
theorem restartFrame : Obligations.RestartFrame := by
  intro k tl x y s t hwf hexec
  rcases exec_restart_cases k tl x y s with ⟨e, herror, _⟩ | ⟨c, hc, _, ⟨u, hnext, hstep⟩ | ⟨_, _, hfault⟩⟩
  case inl =>
    cases herror.symm.trans hexec
    exact ⟨rfl, rfl, rfl, rfl, rfl, ⟨rfl, rfl, rfl, rfl⟩, rfl, rfl, rfl, rfl, rfl, rfl, rfl, fun a _ => fieldValue_congr a rfl rfl, id,
      fun c hc => ⟨c, hc, rfl, fun _ _ _ => rfl, fun _ _ _ => rfl, fun _ _ => rfl, fun _ _ _ => rfl⟩⟩
  case inr.inr => cases hfault.symm.trans hexec
  case inr.inl =>
    cases hnext.symm.trans hexec
    obtain ⟨hcmd, harg0L, harg0H, harg1, harg2, hresults, hcmdL, hargL, hhostIn, hhostOut, hinp, hpar, hoverrun⟩ := hstep.frame
    refine ⟨hcmd, harg0L, harg0H, harg1, harg2, hresults, hcmdL, hargL, hhostIn, hhostOut, hinp, hpar, hoverrun,
      hstep.fieldsKept hwf, fun hnone => (nomatch hnone.symm.trans hc), fun c' hc' => ?record⟩
    obtain rfl : c = c' := Option.some.inj (hc.symm.trans hc')
    rcases hstep.inst_eq with hinst | ⟨n, hseq, hidx, hinst⟩
    · exact ⟨c, hinst.trans hc, rfl, fun _ _ _ => rfl, fun _ _ _ => rfl, fun _ _ => rfl, fun _ _ _ => rfl⟩
    · refine ⟨_, hinst, rfl, fun _ _ _ => rfl, fun _ _ _ => rfl, fun k' n' => ?_, fun k' n' hne => ?_⟩
      · rw [setTile_tileAt]
        split
        · next h => rw [h.1, h.2]
        · rfl
      · rw [setTile_tileAt, if_neg]
        rintro ⟨rfl, rfl⟩
        exact hne ⟨rfl, hidx, hseq⟩

end Inversion

end Sys2Proof.Machine
end

section
/-! PROOFS. What every command but RESTART can leave: its accesses, its frame, its one posting (10_state.md section 2,
60_exceptions.md section 1), with the converter record kept in range. -/

namespace Sys2Proof.Machine

section Accesses

/-- `u` is `s` after the port accesses and waits `es`: they stand in the record, and the converter fields are as they leave them. -/
structure Made (es : List PortEvent) (s u : State) : Prop where
  par : u.par = s.par
  port : u.port = s.port ++ es
  conv : u.conv = replayed s.par s.conv es

namespace Made

variable {s u v : State} {es es' : List PortEvent}

theorem nil (hpar : u.par = s.par) (hport : u.port = s.port) (hconv : u.conv = s.conv) : Made [] s u :=
  ⟨hpar, hport.trans (List.append_nil _).symm, hconv⟩

theorem trans (hsu : Made es s u) (huv : Made es' u v) : Made (es ++ es') s v where
  par := huv.par.trans hsu.par
  port := by rw [huv.port, hsu.port, List.append_assoc]
  conv := by rw [huv.conv, hsu.par, hsu.conv, replayed_append]

theorem portWrites (ws : List (FieldAddr × Word)) (s : State) : Made (ws.map fun w => .write w.1 w.2) s (portWrites ws s) := by
  rw [portWrites_eq]
  exact ⟨rfl, rfl, (replayed_writes ..).symm⟩

theorem portReads (as : List FieldAddr) (s : State) : Made (as.map fun a => .read a (fieldValue a s)) s (portReads as s) := by
  rw [portReads_eq]
  exact ⟨rfl, rfl, (replayed_reads ..).symm⟩

/-- The accesses made are those the record has gained. -/
theorem eq_drop (h : Made es s u) : u.port.drop s.port.length = es := by
  rw [h.port, List.drop_left]

end Made

/-- A read or write of a per-block field: every access of every command but RESTART. -/
def PortEvent.onBlock : PortEvent → Bool
  | .read (.blk ..) _ => true
  | .write (.blk ..) _ => true
  | _ => false

/-- Only accesses of per-block fields lie between `s` and `u`. -/
def BlockAccesses (s u : State) : Prop := ∃ es, Made es s u ∧ ∀ e ∈ es, e.onBlock = true

namespace BlockAccesses

variable {s u v : State}

theorem none (hpar : u.par = s.par) (hport : u.port = s.port) (hconv : u.conv = s.conv) : BlockAccesses s u :=
  ⟨[], .nil hpar hport hconv, nofun⟩

theorem trans (hsu : BlockAccesses s u) (huv : BlockAccesses u v) : BlockAccesses s v := by
  obtain ⟨es, hmade, hes⟩ := hsu
  obtain ⟨es', hmade', hes'⟩ := huv
  exact ⟨es ++ es', hmade.trans hmade', List.forall_mem_append.mpr ⟨hes, hes'⟩⟩

theorem portRead (f : BlockField) (k : Kind) (t p : Fin 4) (s : State) : BlockAccesses s (portRead (.blk f k t p) s) :=
  ⟨[.read (.blk f k t p) (fieldValue (.blk f k t p) s)], ⟨rfl, rfl, rfl⟩, by simp [PortEvent.onBlock]⟩

theorem portReads (fs : List BlockField) (k : Kind) (t p : Fin 4) (s : State) :
    BlockAccesses s (portReads (fs.map fun f => .blk f k t p) s) :=
  ⟨_, .portReads .., by simp [PortEvent.onBlock]⟩

theorem portWrites {ws : List (FieldAddr × Word)} (hws : ∀ w ∈ ws, ∃ f k t p, w.1 = .blk f k t p) (s : State) :
    BlockAccesses s (portWrites ws s) := by
  refine ⟨_, .portWrites ws s, List.forall_mem_map.mpr fun w hw => ?_⟩
  obtain ⟨f, k, t, p, ha⟩ := hws w hw
  rw [ha]
  rfl

theorem spanWrites (f : BlockField) (v : Word) (k : Kind) (t : Fin 4) (ps : List (Fin 4)) (s : State) :
    BlockAccesses s (Machine.portWrites (spanWrites f v k t ps) s) :=
  portWrites (fun _ hw => by
    obtain ⟨p, _, rfl⟩ := List.mem_map.mp hw
    exact ⟨f, k, t, p, rfl⟩) s

theorem fifoRecompute (c : Converter) (k : Kind) (t b : Fin 4) (ch : Channel) (s : State) :
    BlockAccesses s (fifoRecompute c k t b ch s) := by
  refine (portReads [.rateFactor ch, .rateDtype] k t (phys s.inp c k t b) s).trans ?_
  change BlockAccesses (Machine.portReads (recomputeReads c k t b ch s) s) (Machine.portWrites (recomputeWrites c k t b ch s) _)
  unfold recomputeWrites
  split
  · exact none rfl rfl rfl
  · exact spanWrites ..

end BlockAccesses

end Accesses

section Records

/-- The converter record, once valid, is in range: the invariant's clause. -/
def RecordOk (s : State) : Prop := ∀ c, s.inst = some c → ConverterOk s.inp c

variable {i : Inputs} {c : Converter}

theorem ConverterOk.setBlk (hc : ConverterOk i c) (k : Kind) (n b : Fin 4) (r : BlkRec)
    (hmixer : r.mix.type = .off ↔ r.mix.mode = .off) (hrate : ∀ ch, r.rate ch ∈ factors) (hdp : r.dpMode = (c.blkAt k n b).dpMode)
    (hpair : ∃ cat mb sl, Machine.pair cat mb b sl = (r.connI, r.connQ)) : ConverterOk i (c.setBlk k n b r) := by
  refine ⟨hc.gen, hc.pwr, hc.fs, fun k' n' b' => ?_, fun k' n' b' => ?_, fun n' b' => ?_, hc.dacCal, fun k' n' b' => ?_⟩ <;>
    rw [setBlk_blkAt] <;> split
  · exact hmixer
  · exact hc.mixer k' n' b'
  · exact hrate
  · exact hc.rate k' n' b'
  · next h =>
    obtain ⟨rfl, rfl, rfl⟩ := h
    rw [hdp]
    exact hc.dpMode n' b'
  · exact hc.dpMode n' b'
  · next h =>
    obtain ⟨-, -, rfl⟩ := h
    exact hpair
  · exact hc.pair k' n' b'

/-- Storing a zone changes no range. -/
theorem ConverterOk.zoneStored (hc : ConverterOk i c) (k : Kind) (n b : Fin 4) (z : Zone) : ConverterOk i (zoneStored k n b z c) := by
  refine ⟨hc.gen, hc.pwr, hc.fs, hc.mixer, hc.rate, hc.dpMode, fun n' b' => ?_, hc.pair⟩
  rw [Machine.zoneStored, setAna_anaAt]
  split
  · next h =>
    obtain ⟨rfl, rfl, rfl⟩ := h
    exact hc.dacCal n' b'
  · exact hc.dacCal n' b'

theorem ConverterOk.recordPower (hc : ConverterOk i c) (k : Kind) (n : Fin 4) (e : BitVec 4) :
    ConverterOk i (c.setTile k n { c.tileAt k n with pwr := e.toNat }) := by
  refine ⟨hc.gen, fun k' n' => ?_, fun k' n' hon => ?_, hc.mixer, hc.rate, hc.dpMode, hc.dacCal, hc.pair⟩ <;>
    rw [setTile_tileAt] <;> split
  · exact Nat.le_of_lt_succ e.isLt
  · exact hc.pwr k' n'
  · next h =>
    obtain ⟨rfl, rfl⟩ := h
    exact hc.fs k' n' hon
  · exact hc.fs k' n' hon

/-- A valid snapshot's record is in range (R241, R242). -/
theorem converterOk_initConverter (hvalid : validSnapshot i = true) : ConverterOk i (initConverter i) := by
  obtain ⟨hlow, hhigh, -, htile, hblk⟩ := validSnapshot_iff.mp hvalid
  have hat (k n b) := initConverter_blkAt i k n b
  refine ⟨⟨hlow, hhigh⟩, fun k n => (htile k n).1, fun k n => (htile k n).2, fun k n b => ?mixer, fun k n b ch => ?rate, fun n b => ?dp,
    fun n b => ?cal, fun k n b => ?pair⟩
  case mixer =>
    rw [hat]
    exact (hblk k n b).1
  case rate =>
    obtain ⟨-, hlive, hobs, -⟩ := hblk k n b
    rw [hat]
    cases ch with
    | live => exact hlive
    | obs => exact hobs
  case dp =>
    obtain ⟨-, -, -, hdp, -⟩ := hblk .adc n b
    rw [hat]
    exact hdp rfl
  case cal =>
    obtain ⟨-, -, -, -, hcal⟩ := hblk .dac n b
    exact hcal rfl
  case pair =>
    rw [hat]
    exact ⟨_, _, _, rfl⟩

end Records

section Commands

/-- What a command's rule may have done before posting: per-block accesses, results, and a record kept in range. -/
structure Worked (s u : State) : Prop where
  frame : EngineFrame s u
  accesses : BlockAccesses s u
  record : RecordOk s → RecordOk u

/-- What a command other than RESTART leaves: a success posted over its work, or an error posted over nothing but reads. -/
inductive Ended (s : State) : State → Prop
  | ok {u : State} (h : Worked s u) : Ended s (postOk u)
  | error {u : State} (e : Err) (he : e ≠ .unsupportedOnSiliconGeneration) (h : Worked s u) (hinst : u.inst = s.inst)
    (hconv : u.conv = s.conv) (hres : ResultsKept s u) : Ended s (raise e none u)

theorem Worked.refl (s : State) : Worked s s :=
  ⟨.refl s, .none rfl rfl rfl, id⟩

theorem Ended.error_refl {s : State} {e : Err} (he : e ≠ .unsupportedOnSiliconGeneration) : Ended s (raise e none s) :=
  .error e he (.refl s) rfl rfl (.refl s)

/-- A rule's answer: a state a command can end in, or an error some rule raises. -/
def RuleEnds (s : State) (r : Except Err State) : Prop :=
  (∃ t, r = .ok t ∧ Ended s t) ∨ ∃ e, r = .error e ∧ e ≠ .unsupportedOnSiliconGeneration

variable {s : State} {k : Kind} {tl : BitVec 3} {n b : Fin 4} {c : Converter}

theorem finish_ends {r : Except Err State} (h : RuleEnds s r) : ∃ t, finish s r = .next t ∧ Ended s t := by
  rcases h with ⟨t, rfl, ht⟩ | ⟨e, rfl, he⟩
  · exact ⟨t, rfl, ht⟩
  · exact ⟨_, rfl, .error_refl he⟩

theorem onTile_ends {rule : Converter → Fin 4 → Except Err State} (h : ∀ c n, s.inst = some c → RuleEnds s (rule c n)) :
    RuleEnds s (onTile s tl rule) := by
  rcases onTile_cases s tl rule with ⟨_, hr⟩ | ⟨_, _, _, hr⟩ | ⟨c, n, hc, _, hr⟩ <;> rw [hr]
  · exact .inr ⟨_, rfl, nofun⟩
  · exact .inr ⟨_, rfl, nofun⟩
  · exact h c n hc

theorem available_cases (i : Inputs) (k : Kind) (n b : Fin 4) :
    available i k n b = .ok () ∨ ∃ e, available i k n b = .error e ∧ e ≠ .unsupportedOnSiliconGeneration := by
  unfold available
  split
  · exact .inr ⟨_, rfl, nofun⟩
  · split
    · exact .inr ⟨_, rfl, nofun⟩
    · split
      · exact .inr ⟨_, rfl, nofun⟩
      · exact .inl rfl

theorem onBlock_ends {rule : Converter → Fin 4 → Except Err State} (h : ∀ c n, s.inst = some c → RuleEnds s (rule c n)) :
    RuleEnds s (onBlock s k tl b rule) := by
  refine onTile_ends fun c n hc => ?_
  rcases available_cases s.inp k n b with havail | ⟨e, havail, he⟩ <;> simp only [havail]
  · exact h c n hc
  · exact .inr ⟨e, rfl, he⟩

theorem getStatusRule_ends : RuleEnds s (getStatusRule k b s c n) := by
  cases hon : s.inp.tileOn k n with
  | false => exact .inr ⟨.tileUnavailable, by simp [getStatusRule, hon], nofun⟩
  | true =>
    refine .inl ⟨_, getStatusRule_of_on hon, .ok ⟨.rule s .., ?_, id⟩⟩
    exact ((BlockAccesses.portRead ..).trans (.portRead ..)).trans (.none rfl rfl rfl)

theorem resolvePairRule_ends {mb : BitVec 2} {cat : Category} (hc : s.inst = some c) :
    RuleEnds s (resolvePairRule k b mb cat s c n) := by
  unfold resolvePairRule
  split
  · exact .inr ⟨_, rfl, nofun⟩
  · refine .inl ⟨_, rfl, .ok ⟨.rule s .., .none rfl rfl rfl, fun hrec => ?_⟩⟩
    rintro _ ⟨⟩
    have hok := hrec c hc
    exact hok.setBlk k n b _ (hok.mixer k n b) (hok.rate k n b) rfl ⟨_, _, _, rfl⟩

theorem getPair_ends : RuleEnds s (.ok (postOk { s with res0 := pairWord ((c.blkAt k n b).connI, (c.blkAt k n b).connQ) })) :=
  .inl ⟨_, rfl, .ok ⟨.rule s .., .none rfl rfl rfl, id⟩⟩

theorem rate_setRate_mem {r : BlkRec} {ch : Channel} {f : Nat} (hr : ∀ ch', r.rate ch' ∈ factors) (hf : f ∈ factors) (ch' : Channel) :
    (r.setRate ch f).rate ch' ∈ factors := by
  match ch, ch' with
  | .live, .live | .obs, .obs => exact hf
  | .live, .obs => exact hr .obs
  | .obs, .live => exact hr .live

@[simp] theorem setRate_mix (r : BlkRec) (ch : Channel) (f : Nat) : (r.setRate ch f).mix = r.mix := by cases ch <;> rfl
@[simp] theorem setRate_dpMode (r : BlkRec) (ch : Channel) (f : Nat) : (r.setRate ch f).dpMode = r.dpMode := by cases ch <;> rfl
@[simp] theorem setRate_connI (r : BlkRec) (ch : Channel) (f : Nat) : (r.setRate ch f).connI = r.connI := by cases ch <;> rfl
@[simp] theorem setRate_connQ (r : BlkRec) (ch : Channel) (f : Nat) : (r.setRate ch f).connQ = r.connQ := by cases ch <;> rfl

theorem cgWrites_onBlock {par : Params} {g f : Nat} {ps : List (Fin 4)} {w : FieldAddr × Word} (hw : w ∈ cgWrites par g f k n ps) :
    ∃ f k t p, w.1 = .blk f k t p := by
  unfold cgWrites at hw
  split at hw
  · rcases List.mem_append.mp hw with hw | hw <;> obtain ⟨p, _, rfl⟩ := List.mem_map.mp hw <;> exact ⟨_, _, _, _, rfl⟩
  · cases hw

theorem blockAccesses_setRateEffect {ch : Channel} {f : Nat} : BlockAccesses s (setRateEffect k n b ch f c s) := by
  have hfactor : BlockAccesses s (factorWritten k n b ch f c s) := (BlockAccesses.spanWrites ..).trans (.none rfl rfl rfl)
  rw [setRateEffect_eq]
  exact (hfactor.trans (.fifoRecompute ..)).trans (.portWrites (fun _ => cgWrites_onBlock) _)

theorem worked_setRateEffect {ch : Channel} {f : Nat} (hc : s.inst = some c) (hf : f ∈ factors) :
    Worked s (setRateEffect k n b ch f c s) := by
  refine ⟨onlyConverter_setRateEffect.frame, blockAccesses_setRateEffect, fun hrec d hd => ?_⟩
  obtain rfl := Option.some.inj (setRateEffect_inst.symm.trans hd)
  have hok := hrec c hc
  rw [onlyConverter_setRateEffect.frame.inp]
  refine hok.setBlk k n b _ ?_ (rate_setRate_mem (hok.rate k n b) hf) (setRate_dpMode ..) ?_
  · simpa using hok.mixer k n b
  · simpa using hok.pair k n b

theorem setRateRule_ends {ch : Channel} {factor : BitVec 6} (hc : s.inst = some c) : RuleEnds s (setRateRule k b ch factor s c n) := by
  unfold setRateRule
  split
  · exact .inr ⟨_, rfl, nofun⟩
  · split
    · exact .inr ⟨_, rfl, nofun⟩
    · next hlegal =>
      have hf : factor.toNat ∈ factors := (legalFactor_iff.mp (Bool.of_not_eq_false hlegal)).1
      exact .inl ⟨_, rfl, .ok (worked_setRateEffect hc hf)⟩

theorem getRateRule_ends {ch : Channel} : RuleEnds s (getRateRule k b ch s c n) := by
  have hread (p : Fin 4) : Worked s (portRead (.blk (.rateFactor ch) k n p) s) := ⟨.rule s .., .portRead .., id⟩
  unfold getRateRule
  dsimp only
  split
  · exact .inr ⟨_, rfl, nofun⟩
  · split
    · exact .inl ⟨_, rfl, .error _ nofun (hread _) rfl rfl ⟨rfl, rfl, rfl, rfl⟩⟩
    · exact .inl ⟨_, rfl, .ok ⟨.rule s .., (BlockAccesses.portRead ..).trans (.none rfl rfl rfl), id⟩⟩

/-- What SET_MIXER's checks accept (R192 to R196), and that they raise only R260's codes. -/
theorem mixerChecks_cases (s : State) (c : Converter) (k : Kind) (n b : Fin 4) (a : ArgLatch) :
    (∃ e, mixerChecks s c k n b a = .error e ∧ e ≠ .unsupportedOnSiliconGeneration) ∨
    ∃ x, mixerChecks s c k n b a = .ok x ∧ settingsOf a.arg2 = some x ∧ ¬(k = .dac ∧ (c.blkAt k n b).dpMode = .fullBwBypass) ∧
      consistent x = true ∧ eventOk s.inp s.par k n x.evt = true ∧ (-180000 < a.arg1.toInt ∧ a.arg1.toInt < 180000) ∧
      4 * |(freqArg a).toInt| ≤ (halfRate c k n b : Int) := by
  cases hset : settingsOf a.arg2 with
  | none => exact .inl ⟨.invalidArgument, by simp [mixerChecks, hset], nofun⟩
  | some x =>
    simp only [mixerChecks, hset]
    split_ifs with hbypass hcons hevt hphase hfreq
    · exact .inl ⟨_, rfl, nofun⟩
    · exact .inl ⟨_, rfl, nofun⟩
    · exact .inl ⟨_, rfl, nofun⟩
    · exact .inl ⟨_, rfl, nofun⟩
    · exact .inl ⟨_, rfl, nofun⟩
    · refine .inr ⟨x, rfl, rfl, hbypass, Bool.of_not_eq_false hcons, Bool.of_not_eq_false hevt, ?_, Int.not_lt.mp hfreq⟩
      unfold phaseArg at hphase
      omega

/-- R193's conditions on the settings. -/
theorem consistent_iff {x : Settings} :
    consistent x = true ↔ (x.type = .off ↔ x.mode = .off) ∧ ¬(x.type = .fine ∧ x.mode = .r2r) ∧ ¬(x.type = .coarse ∧ x.sel = .off) := by
  rw [consistent, Bool.and_eq_true, Bool.and_eq_true, type_off_beq_mode_off, and_assoc]
  simp [imp_iff_not_or]

theorem mixerWrites_onBlock {i : Inputs} {par : Params} {x : Settings} {a : ArgLatch} {ps : List (Fin 4)} {w : FieldAddr × Word}
    (hw : w ∈ ps.flatMap (mixerBlockWrites i par c k n b x a)) : ∃ f k t p, w.1 = .blk f k t p := by
  obtain ⟨p, -, hp⟩ := List.mem_flatMap.mp hw
  obtain ⟨f, -, ha⟩ := mem_mixerBlockWrites_addr hp
  exact ⟨f, k, n, p, ha⟩

theorem blockAccesses_updateWrites (x : Settings) (ps : List (Fin 4)) (u : State) :
    BlockAccesses u (portWrites (updateWrites x k n ps) u) := by
  unfold updateWrites
  split
  · exact .spanWrites ..
  · exact .none rfl rfl rfl

theorem blockAccesses_setMixerEffect {x : Settings} : BlockAccesses s (setMixerEffect k n b x c s) := by
  have hwritten : BlockAccesses s (mixerWritten k n b x c s) :=
    ((BlockAccesses.portWrites (fun _ => mixerWrites_onBlock) s).trans (blockAccesses_updateWrites ..)).trans (.none rfl rfl rfl)
  rw [setMixerEffect_eq]
  split
  · exact (hwritten.trans (.fifoRecompute ..)).trans (.fifoRecompute ..)
  · exact hwritten.trans (.fifoRecompute ..)

theorem onlyConverter_setMixerEffect {x : Settings} : OnlyConverter s (setMixerEffect k n b x c s) := by
  have hwritten : OnlyConverter s (mixerWritten k n b x c s) :=
    ((OnlyConverter.portWrites ..).trans (.portWrites ..)).trans (.withInst ..)
  rw [setMixerEffect_eq]
  split
  · exact (hwritten.trans (.fifoRecompute ..)).trans (.fifoRecompute ..)
  · exact hwritten.trans (.fifoRecompute ..)

theorem setMixerEffect_inst {x : Settings} :
    (setMixerEffect k n b x c s).inst = some (c.setBlk k n b (persistedBlk (c.blkAt k n b) k x s.argL)) := by
  rw [setMixerEffect_eq]
  split <;> simp only [fifoRecompute_inst] <;> rfl

theorem worked_setMixerEffect {x : Settings} (hc : s.inst = some c) (hcons : consistent x = true) :
    Worked s (setMixerEffect k n b x c s) := by
  refine ⟨onlyConverter_setMixerEffect.frame, blockAccesses_setMixerEffect, fun hrec d hd => ?_⟩
  obtain rfl := Option.some.inj (setMixerEffect_inst.symm.trans hd)
  have hok := hrec c hc
  rw [onlyConverter_setMixerEffect.frame.inp]
  refine hok.setBlk k n b _ (consistent_iff.mp hcons).1 (fun ch => ?_) rfl (hok.pair k n b)
  cases ch with
  | live => exact hok.rate k n b .live
  | obs => exact hok.rate k n b .obs

theorem setMixerRule_ends (hc : s.inst = some c) : RuleEnds s (setMixerRule k b s c n) := by
  unfold setMixerRule
  rcases mixerChecks_cases s c k n b s.argL with ⟨e, he, hne⟩ | ⟨x, hx, _, _, hcons, _⟩
  · rw [he]
    exact .inr ⟨e, rfl, hne⟩
  · rw [hx]
    exact .inl ⟨_, rfl, .ok (worked_setMixerEffect hc hcons)⟩

theorem getMixerRule_ends : RuleEnds s (getMixerRule k b s c n) := by
  refine .inl ⟨_, rfl, .ok ⟨?_, ?_, ?_⟩⟩
  · rw [portReads_eq]
    exact .rule s ..
  · exact (BlockAccesses.portReads [.ncoFreqUpp, .ncoFreqMid, .ncoFreqLow, .ncoPhaseMid, .ncoPhaseLow, .mixCoarse, .mixFine, .mixEvt,
      .mixScale] k n (phys s.inp c k n b) s).trans (.none rfl rfl rfl)
  · rw [portReads_eq]
    exact id

theorem blockAccesses_setNyquistEffect {z : Zone} : BlockAccesses s (setNyquistEffect k n b z c s) := by
  have hstored : BlockAccesses s { s with inst := some (zoneStored k n b z c) } := .none rfl rfl rfl
  rw [setNyquistEffect_eq]
  exact hstored.trans (.spanWrites ..)

theorem setNyquistRule_ends {z : BitVec 2} (hc : s.inst = some c) : RuleEnds s (setNyquistRule k b z s c n) := by
  unfold setNyquistRule
  split
  · exact .inr ⟨_, rfl, nofun⟩
  · next zone _ =>
    rcases available_cases s.inp k n b with havail | ⟨e, havail, he⟩ <;> simp only [havail]
    · refine .inl ⟨_, rfl, .ok ⟨onlyConverter_setNyquistEffect.frame, blockAccesses_setNyquistEffect, fun hrec d hd => ?_⟩⟩
      obtain rfl := Option.some.inj (setNyquistEffect_inst.symm.trans hd)
      rw [setNyquistEffect_inp]
      exact (hrec c hc).zoneStored k n b zone
    · exact .inr ⟨e, rfl, he⟩

theorem getNyquistRule_ends : RuleEnds s (getNyquistRule k b s c n) :=
  .inl ⟨_, rfl, .ok ⟨.rule s .., (BlockAccesses.portRead ..).trans (.none rfl rfl rfl), id⟩⟩

theorem init_ends : RuleEnds s (if validSnapshot s.inp then .ok (postOk { s with inst := some (initConverter s.inp) })
    else .error .inconsistentConfiguration) := by
  split
  · next hvalid =>
    refine .inl ⟨_, rfl, .ok ⟨.rule s .., .none rfl rfl rfl, fun _ => ?_⟩⟩
    rintro _ ⟨⟩
    exact converterOk_initConverter hvalid
  · exact .inr ⟨_, rfl, nofun⟩

/-- Every command but RESTART answers a state it ends in (R22, R23, R305). -/
theorem exec_ended {i : Instr} (hi : isRestart i = false) (s : State) : ∃ t, exec i s = .next t ∧ Ended s t := by
  cases i with
  | restart k t x y => cases hi
  | init => exact finish_ends init_ends
  | getStatus k t b => exact finish_ends (onTile_ends fun _ _ _ => getStatusRule_ends)
  | resolvePair k t b mb cat => exact finish_ends (onTile_ends fun _ _ hc => resolvePairRule_ends hc)
  | getPair k t b => exact finish_ends (onTile_ends fun _ _ _ => getPair_ends)
  | setRate k t b ch f => exact finish_ends (onBlock_ends fun _ _ hc => setRateRule_ends hc)
  | getRate k t b ch => exact finish_ends (onBlock_ends fun _ _ _ => getRateRule_ends)
  | setMixer k t b => exact finish_ends (onBlock_ends fun _ _ hc => setMixerRule_ends hc)
  | getMixer k t b => exact finish_ends (onBlock_ends fun _ _ _ => getMixerRule_ends)
  | setNyquist k t b z => exact finish_ends (onTile_ends fun _ _ hc => setNyquistRule_ends hc)
  | getNyquist k t b => exact finish_ends (onBlock_ends fun _ _ _ => getNyquistRule_ends)

end Commands

section Settled

variable {s t : State}

theorem Ended.frame (h : Ended s t) : EngineFrame s t := by
  cases h with
  | ok hw => exact hw.frame.trans (.postOk _)
  | error e _ hw => exact hw.frame.trans (.raise e none _)

theorem ended_of_exec {i : Instr} (hi : isRestart i = false) (hexec : exec i s = .next t) : Ended s t := by
  obtain ⟨u, hu, hended⟩ := exec_ended hi s
  cases hu.symm.trans hexec
  exact hended

/-- Settles O21. -/
theorem commandsEndInOneStep : Obligations.CommandsEndInOneStep := by
  intro i s hi
  obtain ⟨t, hexec, hended⟩ := exec_ended hi s
  refine ⟨t, hexec, ?_, ?_, ?_, hended.frame⟩ <;> cases hended <;> rfl

/-- Settles O20: a success posts `OK`, and an error is posted over nothing but reads. -/
theorem errorsChangeNothingElse : Obligations.ErrorsChangeNothingElse := by
  intro i s t hi hexec herr
  have hended := ended_of_exec hi hexec
  have hframe := hended.frame
  cases hended with
  | ok hw => exact absurd rfl herr
  | error e _ hw hinst hconv hres => exact ⟨hinst, hconv, ⟨hres.res0, hres.res1, hres.res2, hres.res3⟩, hframe, rfl, rfl, rfl⟩

end Settled

end Sys2Proof.Machine
end

section
/-! PROOFS. The getters' frame, the invariant every step keeps, and an engine reset inside a step (10_state.md, 70_reset_and_hazards.md
section 1). -/

namespace Sys2Proof.Machine

section Getters

variable {s t : State} {k : Kind} {tl : BitVec 3} {n b : Fin 4} {rule : Converter → Fin 4 → Except Err State}

/-- The converter record and the converter fields are unchanged. -/
def ConfigurationKept (s t : State) : Prop := t.inst = s.inst ∧ t.conv = s.conv

theorem configurationKept_of_finish {r : Except Err State} (hr : ∀ u, r = .ok u → ConfigurationKept s u)
    (h : finish s r = .next t) : ConfigurationKept s t := by
  rcases finish_next s r with ⟨u, hu, hnext⟩ | ⟨e, _, hnext⟩ <;> cases hnext.symm.trans h
  · exact hr t hu
  · exact ⟨rfl, rfl⟩

theorem configurationKept_onTile (hrule : ∀ c n u, rule c n = .ok u → ConfigurationKept s u)
    (h : finish s (onTile s tl rule) = .next t) : ConfigurationKept s t := by
  refine configurationKept_of_finish (fun u hu => ?_) h
  rcases onTile_cases s tl rule with ⟨_, hr⟩ | ⟨_, _, _, hr⟩ | ⟨c, n, _, _, hr⟩
  · cases hr.symm.trans hu
  · cases hr.symm.trans hu
  · exact hrule c n u (hr.symm.trans hu)

theorem configurationKept_onBlock (hrule : ∀ c n u, rule c n = .ok u → ConfigurationKept s u)
    (h : finish s (onBlock s k tl b rule) = .next t) : ConfigurationKept s t := by
  refine configurationKept_of_finish (fun u hu => ?_) h
  rcases onBlock_cases s k tl b rule with ⟨e, hr⟩ | ⟨c, n, _, _, _, hr⟩
  · cases hr.symm.trans hu
  · exact hrule c n u (hr.symm.trans hu)

/-- Settles O22: each getter's rule only reads, records its reads and posts. -/
theorem gettersChangeNoConfiguration : Obligations.GettersChangeNoConfiguration := by
  rintro k tl b ch i s t (rfl | rfl | rfl | rfl | rfl) hexec
  · refine configurationKept_onTile (fun c n u hu => ?_) hexec
    cases hon : s.inp.tileOn k n with
    | false => simp [getStatusRule, hon] at hu
    | true =>
      cases (getStatusRule_of_on hon).symm.trans hu
      exact ⟨rfl, rfl⟩
  · refine configurationKept_onTile (fun c n u hu => ?_) hexec
    cases hu
    exact ⟨rfl, rfl⟩
  · refine configurationKept_onBlock (fun c n u hu => ?_) hexec
    unfold getRateRule at hu
    dsimp only at hu
    split at hu
    · cases hu
    · split at hu <;> cases hu <;> exact ⟨rfl, rfl⟩
  · refine configurationKept_onBlock (fun c n u hu => ?_) hexec
    cases hu
    rw [portReads_eq]
    exact ⟨rfl, rfl⟩
  · refine configurationKept_onBlock (fun c n u hu => ?_) hexec
    cases hu
    exact ⟨rfl, rfl⟩

end Getters

section Fields

/-- The stored converter fields as the invariant wants them: canonical, within their widths, and only fields the engine holds. -/
structure ConvOk (par : Params) (m : Memory) : Prop where
  wf : Memory.wf m = true
  fits : ∀ a v, Memory.lookup m (FieldAddr.key a) = some v → v.toNat < 2 ^ a.width par
  held : ∀ a, FieldAddr.notHeld a = true → Memory.lookup m a.key = none

variable {par : Params} {m : Memory}

/-- A `PortWrite` stores a held field cut to its width, and nothing else. -/
theorem ConvOk.writtenConv (h : ConvOk par m) (a : FieldAddr) (v : Word) : ConvOk par (writtenConv par m a v) := by
  cases ha : a.notHeld with
  | true =>
    have hsame : Machine.writtenConv par m a v = m := by simp [Machine.writtenConv, ha]
    rwa [hsame]
  | false =>
    refine ⟨writtenConv_wf a v h.wf, fun a' u hu => ?_, fun a' ha' => ?_⟩
    · by_cases heq : a' = a
      · subst heq
        rw [lookup_writtenConv_same m v ha] at hu
        cases hu
        rw [toNat_lowBits]
        exact Nat.mod_lt _ (Nat.two_pow_pos _)
      · rw [lookup_writtenConv_other v h.wf heq] at hu
        exact h.fits a' u hu
    · have hne : a' ≠ a := by
        rintro rfl
        cases ha.symm.trans ha'
      rw [lookup_writtenConv_other v h.wf hne]
      exact h.held a' ha'

theorem ConvOk.replayed (h : ConvOk par m) (es : List PortEvent) : ConvOk par (replayed par m es) := by
  induction es generalizing m with
  | nil => exact h
  | cons e rest ih =>
    cases e with
    | read a v => exact ih h
    | write a v => exact ih (h.writtenConv a v)
    | writeRestartState k t x y => exact ih ((h.writtenConv _ _).writtenConv _ _)
    | wait => exact ih h

end Fields

section Base

/-- The part of the invariant that does not speak of the sequencer's state: the converter, the walk's range and the parameters. -/
structure Base (s : State) : Prop where
  conv : ConvOk s.par s.conv
  lastIdx : s.lastIdx ≤ 3
  idx : s.idx ≤ s.lastIdx + 1
  record : RecordOk s
  params : ParamsOk s.par
  mixerTable : MixerTableFits s.par

variable {s t u : State}

theorem State.Inv.base (h : s.Inv) : Base s :=
  ⟨⟨h.conv_wf, h.conv_fits, h.conv_held⟩, h.lastIdx, h.idx, h.record, h.params, h.mixerTable⟩

/-- In IDLE the invariant asks for no more than the status of an ended command. -/
theorem Base.inv_of_idle (h : Base t) (hseq : t.seq = .idle) (htimer : t.timer = false) (hbusy : t.status.busy = false)
    (hdone : t.status.done = true) (herr : postedCode t.status.err = true) (htile : t.status.failTile.toNat < 4)
    (hvalid : t.status.failTileValid = false → t.status.failTile = 0 ∧ t.status.timeoutKind = false) : t.Inv where
  conv_wf := h.conv.wf
  conv_fits := h.conv.fits
  conv_held := h.conv.held
  busy := by rw [hbusy, hseq]; rfl
  done := by rw [hdone, hseq]; rfl
  err := herr
  failTile := htile
  failValid := hvalid
  lastIdx := h.lastIdx
  idx := h.idx
  tile := by rw [hseq]; nofun
  timer := by rw [htimer]; nofun
  lockRetry := by rw [hseq]; nofun
  clearRetry := by rw [hseq]; nofun
  record := h.record
  params := h.params
  mixerTable := h.mixerTable

/-- While a command runs the status is the acceptance's, and the walk and its polls are within their bounds. -/
theorem Base.inv_of_busy (h : Base t) (hs : s.Inv) (hsbusy : s.seq ≠ .idle) (hstatus : t.status = s.status) (hbusy : t.seq ≠ .idle)
    (htile : t.seq.onTile = true → t.idx ≤ t.lastIdx) (htimer : t.timer = true → t.seq = .rLock ∨ t.seq = .rClear)
    (hlock : t.seq = .rLock → t.retry ≤ t.par.lockMaxRetries) (hclear : t.seq = .rClear → t.retry ≤ t.par.clrMaxRetries) :
    t.Inv where
  conv_wf := h.conv.wf
  conv_fits := h.conv.fits
  conv_held := h.conv.held
  busy := by rw [hstatus, hs.busy, bne_iff_ne.mpr hsbusy, bne_iff_ne.mpr hbusy]
  done := by rw [hstatus, hs.done, beq_eq_false_iff_ne.mpr hsbusy, beq_eq_false_iff_ne.mpr hbusy]
  err := hstatus ▸ hs.err
  failTile := hstatus ▸ hs.failTile
  failValid := hstatus ▸ hs.failValid
  lastIdx := h.lastIdx
  idx := h.idx
  tile := htile
  timer := htimer
  lockRetry := hlock
  clearRetry := hclear
  record := h.record
  params := h.params
  mixerTable := h.mixerTable

theorem Base.postOk (h : Base u) : (postOk u).Inv :=
  Base.inv_of_idle ⟨h.conv, h.lastIdx, h.idx, h.record, h.params, h.mixerTable⟩ rfl rfl rfl rfl rfl
    (by decide : (0#3).toNat < 4) fun _ => ⟨rfl, rfl⟩

theorem postedCode_code {e : Err} (he : e ≠ .unsupportedOnSiliconGeneration) : postedCode e.code = true := by
  cases e <;> first | rfl | exact absurd rfl he

theorem Base.raise {e : Err} (h : Base u) (he : e ≠ .unsupportedOnSiliconGeneration) (info : Option FailInfo) :
    (raise e info u).Inv := by
  refine Base.inv_of_idle ⟨h.conv, h.lastIdx, h.idx, h.record, h.params, h.mixerTable⟩ rfl rfl rfl rfl (postedCode_code he) ?_ ?_
  · cases info with
    | none => exact (by decide : (0#3).toNat < 4)
    | some i => exact i.tile.isLt
  · cases info with
    | none => exact fun _ => ⟨rfl, rfl⟩
    | some i => nofun

theorem Base.of_made {es : List PortEvent} (h : Base s) (hmade : Made es s u) (hlast : u.lastIdx ≤ 3) (hidx : u.idx ≤ u.lastIdx + 1)
    (hrecord : RecordOk u) : Base u where
  conv := by rw [hmade.par, hmade.conv]; exact h.conv.replayed es
  lastIdx := hlast
  idx := hidx
  record := hrecord
  params := by rw [hmade.par]; exact h.params
  mixerTable := by rw [hmade.par]; exact h.mixerTable

theorem Base.worked (h : Base s) (hw : Worked s u) : Base u := by
  obtain ⟨es, hmade, _⟩ := hw.accesses
  refine h.of_made hmade ?_ ?_ (hw.record h.record)
  · rw [hw.frame.lastIdx]
    exact h.lastIdx
  · rw [hw.frame.idx, hw.frame.lastIdx]
    exact h.idx

theorem Ended.inv (h : Base s) (hended : Ended s t) : t.Inv := by
  cases hended with
  | ok hw => exact (h.worked hw).postOk
  | error e he hw => exact (h.worked hw).raise he none

/-- A reset leaves nothing to keep but the converter fields' form and the parameters' constraints. -/
theorem inv_engineReset (hconv : ConvOk s.par s.conv) (hparams : ParamsOk s.par) (htable : MixerTableFits s.par) :
    (engineReset s).Inv := by
  have hrecord : RecordOk (engineReset s) := fun c hc => nomatch (show none = some c from hc)
  have hbase : Base (engineReset s) := ⟨hconv, Nat.zero_le _, Nat.zero_le _, hrecord, hparams, htable⟩
  exact hbase.inv_of_idle rfl rfl rfl rfl (by decide : postedCode 0 = true) (by decide : (0#3).toNat < 4) fun _ => ⟨rfl, rfl⟩

end Base

section Reset

theorem paramsOk_config : ParamsOk Config.params where
  fabricReal := nofun
  cgOrder := by
    have h := config_cg_ordered.1
    have hfits := config_cg_fits
    change (BitVec.ofNat 32 Config.cgDelayPow2).toNat < (BitVec.ofNat 32 Config.cgDelayExt).toNat
    rw [BitVec.toNat_ofNat, BitVec.toNat_ofNat, Nat.mod_eq_of_lt hfits, Nat.mod_eq_of_lt (h.trans hfits)]
    exact h
  cgFits := by
    change (BitVec.ofNat 32 Config.cgDelayExt).toNat < 2 ^ Config.cgDelayBits
    rw [BitVec.toNat_ofNat, Nat.mod_eq_of_lt config_cg_fits]
    exact config_cg_ordered.2

theorem toNat_selCode_lt (sl : CoarseSel) : ((selCode sl).setWidth 32).toNat < 2 ^ 3 := by
  cases sl <;> decide

theorem toNat_fineDefault_lt (ty : MixType) (md : MixMode) : (fineDefault ty md).toNat < 2 ^ 7 := by
  cases ty <;> cases md <;> decide

/-- The default table fits the default widths (R205). -/
theorem mixerTableFits_config : MixerTableFits Config.params := by
  intro ty md sl hs odd
  have hentry : mixerEntry Config.params ty md sl hs odd =
      if ty = .off then (0, 0) else ((selCode sl).setWidth 32, fineDefault ty md) := rfl
  rw [hentry]
  split
  · exact ⟨Nat.two_pow_pos 3, Nat.two_pow_pos 7⟩
  · exact ⟨toNat_selCode_lt sl, toNat_fineDefault_lt ty md⟩

/-- Settles O15: reset is an engine reset of a state with no converter field written. -/
theorem invHoldsAtReset : Obligations.InvHoldsAtReset :=
  inv_engineReset (s := State.reset) ⟨rfl, nofun, fun _ _ => rfl⟩ paramsOk_config mixerTableFits_config

end Reset

end Sys2Proof.Machine
end

section
/-! PROOFS. Every step keeps the invariant and none faults from it; the accesses of a step, and a reset amid them (10_state.md,
41_power_sequencer.md section 2, 70_reset_and_hazards.md section 1). -/

namespace Sys2Proof.Machine

section Walk

variable {k : Kind} {tl : BitVec 3} {x y : BitVec 4} {c : Converter} {s t : State}

/-- The accesses and waits of one step of a walk (R112 to R118). -/
theorem WalkStep.made (h : WalkStep k tl x y c s t) : ∃ es, Made es s t := by
  cases h with
  | write n => exact ⟨[.writeRestartState k n (x.setWidth 32) ((downgrade s.inp c k n y).setWidth 32)], rfl, rfl, rfl⟩
  | trigger n => exact ⟨[.write (.tile .restartGo k n) 1], rfl, rfl, rfl⟩
  | locked n => exact ⟨[.read (.tile Poll.lock.field k n) (if nextAnswer s then 1 else 0)], rfl, rfl, rfl⟩
  | cleared n => exact ⟨[.read (.tile Poll.clear.field k n) (if nextAnswer s then 1 else 0)], rfl, rfl, rfl⟩
  | timeout p n => exact ⟨[.read (.tile p.field k n) (if nextAnswer s then 1 else 0)], rfl, rfl, rfl⟩
  | again p n => exact ⟨[.read (.tile p.field k n) (if nextAnswer s then 1 else 0), .wait], rfl, List.append_assoc .., rfl⟩
  | _ => exact ⟨[], .nil rfl rfl rfl⟩

theorem WalkStep.recordOk (hc : s.inst = some c) (hs : RecordOk s) (h : WalkStep k tl x y c s t) : RecordOk t := by
  intro d hd
  rw [h.frame.inp]
  rcases h.inst_eq with hinst | ⟨n, _, _, hinst⟩
  · exact hs d (hinst.symm.trans hd)
  · obtain rfl := Option.some.inj (hinst.symm.trans hd)
    exact (hs c hc).recordPower k n s.endEff

/-- A selector that passes the decode check has its walk within the tiles (R111). -/
theorem walkRange_of_selectorOk (htl : restartSelectorOk tl = true) : (walkRange tl).1 ≤ (walkRange tl).2 ∧ (walkRange tl).2 ≤ 3 := by
  revert tl
  decide

/-- A step of a walk keeps the walk within its tiles (R112). -/
theorem WalkStep.range (hs : s.Inv) (htl : restartSelectorOk tl = true) (h : WalkStep k tl x y c s t) :
    t.lastIdx ≤ 3 ∧ t.idx ≤ t.lastIdx + 1 := by
  have honTile (hseq : s.seq = .rCheck ∨ s.seq = .rClear) : s.idx ≤ s.lastIdx :=
    hs.tile (by rcases hseq with hseq | hseq <;> rw [hseq] <;> rfl)
  cases h with
  | start =>
    obtain ⟨hle, hlast⟩ := walkRange_of_selectorOk htl
    exact ⟨hlast, Nat.le_succ_of_le hle⟩
  | skipped e htimer hseq => exact ⟨hs.lastIdx, Nat.succ_le_succ (honTile (.inl hseq))⟩
  | cleared n htimer hseq => exact ⟨hs.lastIdx, Nat.succ_le_succ (honTile (.inr hseq))⟩
  | _ => exact ⟨hs.lastIdx, hs.idx⟩

theorem WalkStep.base (hs : s.Inv) (hc : s.inst = some c) (htl : restartSelectorOk tl = true) (h : WalkStep k tl x y c s t) :
    Base t := by
  obtain ⟨es, hmade⟩ := h.made
  obtain ⟨hlast, hidx⟩ := h.range hs htl
  exact hs.base.of_made hmade hlast hidx (h.recordOk hc hs.record)

/-- A sampled state has the base facts of the state sampled. -/
theorem base_sampled (hs : Base s) (p : Poll) (n : Fin 4) : Base (sampled p k n s) :=
  ⟨hs.conv, hs.lastIdx, hs.idx, hs.record, hs.params, hs.mixerTable⟩

theorem seq_of_poll_retry (hs : s.Inv) {p : Poll} (hseq : s.seq = p.seq) : s.retry ≤ p.budget s.par := by
  cases p with
  | lock => exact hs.lockRetry hseq
  | clear => exact hs.clearRetry hseq

/-- A step of a running walk keeps the invariant. -/
theorem WalkStep.inv (hs : s.Inv) (hbusy : s.seq ≠ .idle) (hc : s.inst = some c) (htl : restartSelectorOk tl = true)
    (h : WalkStep k tl x y c s t) : t.Inv := by
  have hbase := h.base hs hc htl
  have htile : s.seq.onTile = true → s.idx ≤ s.lastIdx := hs.tile
  cases h with
  | wait => exact hbase.inv_of_busy hs hbusy rfl hbusy hs.tile nofun hs.lockRetry hs.clearRetry
  | start htimer => exact hbase.inv_of_busy hs hbusy rfl nofun nofun (by rw [startWalk_timer, htimer]; nofun) nofun nofun
  | past htimer => exact hbase.inv_of_busy hs hbusy rfl nofun nofun (by rw [htimer]; nofun) nofun nofun
  | select htimer hseq hlast => exact hbase.inv_of_busy hs hbusy rfl nofun (fun _ => hlast) (by rw [htimer]; nofun) nofun nofun
  | enabled htimer hseq =>
    exact hbase.inv_of_busy hs hbusy rfl nofun (fun _ => htile (by rw [hseq]; rfl)) (by rw [htimer]; nofun) nofun nofun
  | unavailable n => exact hs.base.raise (e := .tileUnavailable) nofun _
  | skipped e htimer => exact hbase.inv_of_busy hs hbusy rfl nofun nofun (by rw [emit_timer, htimer]; nofun) nofun nofun
  | write n htimer hseq =>
    exact hbase.inv_of_busy hs hbusy rfl nofun (fun _ => htile (by rw [hseq]; rfl)) (fun ht => nomatch htimer.symm.trans ht) nofun nofun
  | trigger n htimer hseq =>
    refine hbase.inv_of_busy hs hbusy rfl ?_ (fun _ => htile (by rw [hseq]; rfl)) (fun ht => nomatch htimer.symm.trans ht)
      (fun _ => Nat.zero_le _) fun _ => Nat.zero_le _
    rw [walkTrigger]
    dsimp only
    split <;> nofun
  | locked n htimer hseq =>
    exact hbase.inv_of_busy hs hbusy rfl nofun (fun _ => htile (by rw [hseq]; rfl)) (fun _ => .inr rfl) nofun fun _ => Nat.zero_le _
  | cleared n htimer => exact hbase.inv_of_busy hs hbusy rfl nofun nofun (fun ht => nomatch htimer.symm.trans ht) nofun nofun
  | timeout p n => exact (base_sampled hs.base p n).raise (e := .timeout) nofun _
  | again p n htimer hseq hretry =>
    have hle : s.retry + 1 ≤ p.budget s.par := Nat.lt_of_le_of_ne (seq_of_poll_retry hs hseq) hretry
    have hpoll : s.seq = .rLock ∨ s.seq = .rClear := by cases p <;> simp [hseq, Poll.seq]
    refine hbase.inv_of_busy hs hbusy rfl hbusy hs.tile (fun _ => hpoll) (fun hlock => ?_) fun hclear => ?_
    · cases p with
      | lock => exact hle
      | clear => cases hseq.symm.trans hlock
    · cases p with
      | lock => cases hseq.symm.trans hclear
      | clear => exact hle
  | posted => exact hs.base.postOk

end Walk

section Engine

variable {s t : State}

theorem decodeErr_raised (e : DecodeError) (s : State) : decodeErr e s ≠ .unsupportedOnSiliconGeneration := by
  cases e with
  | illegalOpcode => nofun
  | reservedBits op =>
    unfold decodeErr
    dsimp only
    split <;> nofun

/-- What one step of the engine with a command running can be: a command's end, a decode error or RESTART's own error posted, a step of
a walk, or the fault (R22, R94). -/
theorem engineStep_cases (hbusy : s.seq ≠ .idle) :
    (∃ t, engineStep s = .next t ∧ Ended s t) ∨
    ∃ k tl x y c, decode s.cmdL = .ok (.restart k tl x y) ∧ s.inst = some c ∧ restartSelectorOk tl = true ∧
      ((∃ t, engineStep s = .next t ∧ WalkStep k tl x y c s t) ∨
        (s.seq.onTile = true ∧ 4 ≤ s.idx ∧ engineStep s = .fault .walkIndex)) := by
  cases hdec : decode s.cmdL with
  | error e =>
    refine .inl ⟨_, ?_, .error_refl (decodeErr_raised e s)⟩
    simp [engineStep, hbusy, hdec]
  | ok i =>
    have hstep : engineStep s = exec i s := by simp [engineStep, hbusy, hdec]
    rw [hstep]
    cases hi : isRestart i with
    | false => exact .inl (exec_ended hi s)
    | true =>
      cases i with
      | restart k tl x y =>
        rcases exec_restart_cases k tl x y s with ⟨e, herror, he⟩ | ⟨c, hc, htl, hwalk⟩
        · exact .inl ⟨_, herror, .error_refl he⟩
        · exact .inr ⟨k, tl, x, y, c, rfl, hc, htl, hwalk⟩
      | _ => cases hi

/-- A step of the engine keeps the invariant, and does not fault under it. -/
theorem engineStep_inv (hs : s.Inv) : ∃ t, engineStep s = .next t ∧ t.Inv := by
  by_cases hidle : s.seq = .idle
  · exact ⟨s, by simp [engineStep, hidle], hs⟩
  · rcases engineStep_cases hidle with ⟨t, hstep, hended⟩ | ⟨k, tl, x, y, c, _, hc, htl, ⟨t, hstep, hwalk⟩ | ⟨honTile, hidx, _⟩⟩
    · exact ⟨t, hstep, hended.inv hs.base⟩
    · exact ⟨t, hstep, hwalk.inv hs hidle hc htl⟩
    · have := hs.tile honTile
      have := hs.lastIdx
      omega

/-- The accesses of one step of the engine, of whatever command. -/
theorem engineStep_made (hstep : engineStep s = .next t) : ∃ es, Made es s t := by
  by_cases hidle : s.seq = .idle
  · have hsame : s = t := by simpa [engineStep, hidle] using hstep
    exact ⟨[], .nil (by rw [hsame]) (by rw [hsame]) (by rw [hsame])⟩
  · rcases engineStep_cases hidle with ⟨u, hnext, hended⟩ | ⟨k, tl, x, y, c, _, _, _, ⟨u, hnext, hwalk⟩ | ⟨_, _, hfault⟩⟩
    · cases hnext.symm.trans hstep
      cases hended with
      | ok hw =>
        obtain ⟨es, hmade, _⟩ := hw.accesses
        exact ⟨es, hmade.par, hmade.port, hmade.conv⟩
      | error e _ hw =>
        obtain ⟨es, hmade, _⟩ := hw.accesses
        exact ⟨es, hmade.par, hmade.port, hmade.conv⟩
    · cases hnext.symm.trans hstep
      exact hwalk.made
    · cases hfault.symm.trans hstep

end Engine

section Host

variable {s t : State}

/-- The queues and the read results are outside the invariant. -/
theorem State.Inv.withHost (h : s.Inv) (q : List HostEvent) (o : List Word) : State.Inv { s with hostIn := q, hostOut := o } :=
  { h with }

/-- The invariant does not speak of the operand registers or the overrun flag. -/
theorem State.Inv.withOperands (h : s.Inv) (a b c d : Word) : State.Inv { s with arg0L := a, arg0H := b, arg1 := c, arg2 := d } :=
  { h with }

theorem State.Inv.withOverrun (h : s.Inv) (o : Bool) : State.Inv { s with status := { s.status with overrun := o } } :=
  { h with }

theorem accept_inv (h : s.Inv) (hidle : s.seq = .idle) (w : Word) : (accept w s).Inv := by
  have htimer : s.timer = false := by
    by_contra hrun
    rcases h.timer (Bool.of_not_eq_false hrun) with hseq | hseq <;> cases hidle.symm.trans hseq
  by_cases hstarts : startsWalk w (latch w s) = true
  · rw [accept_of_walk hstarts]
    have hrange : (walkRange (tileSelOf w)).1 ≤ (walkRange (tileSelOf w)).2 ∧ (walkRange (tileSelOf w)).2 ≤ 3 := by
      obtain ⟨-, -, htl, -⟩ := (startsWalk_word ..).mp hstarts
      rcases htl with hall | hone
      · simp [walkRange_all_of hall]
      · rw [walkRange_one_of hone]
        exact ⟨Nat.le_refl _, Nat.le_of_lt_succ hone⟩
    exact {
      h with
      busy := rfl
      done := rfl
      err := (by decide : postedCode 0 = true)
      failTile := (by decide : (0#3).toNat < 4)
      failValid := fun _ => ⟨rfl, rfl⟩
      lastIdx := hrange.2
      idx := Nat.le_succ_of_le hrange.1
      tile := nofun
      timer := fun ht => nomatch htimer.symm.trans ht
      lockRetry := nofun
      clearRetry := nofun }
  · rw [accept_of_no_walk hstarts]
    exact {
      h with
      busy := rfl
      done := rfl
      err := (by decide : postedCode 0 = true)
      failTile := (by decide : (0#3).toNat < 4)
      failValid := fun _ => ⟨rfl, rfl⟩
      tile := nofun
      timer := fun ht => nomatch htimer.symm.trans ht
      lockRetry := nofun
      clearRetry := nofun }

theorem writeReg_inv (h : s.Inv) (off : BitVec 6) (v : Word) : (writeReg off v s).Inv := by
  unfold writeReg
  split_ifs with _ hidle
  · exact accept_inv h hidle v
  · exact h.withOverrun true
  · exact h.withOperands v _ _ _
  · exact h.withOperands _ v _ _
  · exact h.withOperands _ _ v _
  · exact h.withOperands _ _ _ v
  · exact h

theorem resetAmidStep_inv (h : s.Inv) (n : Nat) : (resetAmidStep n s).Inv := by
  unfold resetAmidStep
  split
  · exact inv_engineReset (h.base.conv.replayed _) h.params h.mixerTable
  · exact inv_engineReset h.base.conv h.params h.mixerTable
  · exact inv_engineReset h.base.conv h.params h.mixerTable

/-- A host access or reset keeps the invariant where it is defined, and never faults. -/
theorem hostAct_inv (h : s.Inv) (i : HostInput) :
    (∃ t, hostAct i s = .next t ∧ t.Inv) ∨ hostAct i s = .refused .undefinedHostAccess := by
  cases i with
  | write width off v =>
    by_cases hdef : accessDefined width off = true
    · exact .inl ⟨_, if_pos hdef, writeReg_inv h off v⟩
    · exact .inr (if_neg hdef)
  | read width off =>
    by_cases hdef : accessDefined width off = true
    · exact .inl ⟨_, if_pos hdef, h.withHost _ _⟩
    · exact .inr (if_neg hdef)
  | reset => exact .inl ⟨_, rfl, inv_engineReset h.base.conv h.params h.mixerTable⟩
  | resetAmid n => exact .inl ⟨_, rfl, resetAmidStep_inv h n⟩

/-- Whoever's turn it is, a step under the invariant keeps it or is the refusal of an undefined access. -/
theorem step_inv (h : s.Inv) : (∃ t, step s = .next t ∧ t.Inv) ∨ step s = .refused .undefinedHostAccess := by
  obtain ⟨i, q, hturn⟩ := turn_eq s
  have hq : State.Inv { s with hostIn := q } := h.withHost q s.hostOut
  cases i with
  | none =>
    have hstep : step s = engineStep { s with hostIn := q } := by simp [step, transition, hturn]
    rw [hstep]
    exact .inl (engineStep_inv hq)
  | some i =>
    have hstep : step s = hostAct i { s with hostIn := q } := by simp [step, transition, hturn]
    rw [hstep]
    exact hostAct_inv hq i

/-- Settles O16. -/
theorem stepKeepsInv : Obligations.StepKeepsInv := by
  intro s t hs hstep
  rcases step_inv hs with ⟨u, hnext, hu⟩ | hrefused
  · cases hnext.symm.trans hstep
    exact hu
  · cases hrefused.symm.trans hstep

/-- Settles O17. -/
theorem invStatesNeverFault : Obligations.InvStatesNeverFault := by
  intro s hs f hfault
  rcases step_inv hs with ⟨u, hnext, _⟩ | hrefused
  · cases hnext.symm.trans hfault
  · cases hrefused.symm.trans hfault

end Host

/-- Settles O13: the accesses the step would have made are those the record gains, and the reset keeps the first of them. -/
theorem engineResetAmidCommand : Obligations.EngineResetAmidCommand := by
  rintro s u n made rest hin hengine rfl
  obtain ⟨es, hmade⟩ := engineStep_made hengine
  have hes : u.port.drop s.port.length = es := hmade.eq_drop
  have hamid : resetAmidStep n { s with hostIn := rest } = engineReset (partialStep n { s with hostIn := rest } u) := by
    simp [resetAmidStep, hengine]
  refine ⟨_, (step_of_due hin).trans (congrArg Host.Outcome.next hamid), rfl, rfl, List.take_prefix .., fun hall => ?all, rfl,
    statusWord_engineReset _, rfl, rfl, rfl, rfl, rfl, rfl, rfl, rfl, rfl, rfl, rfl, rfl, rfl, rfl, rfl, rfl, rfl, rfl,
    fun hnone => ⟨if_pos hnone, if_pos hnone⟩, fun hsome => ⟨if_neg hsome, if_neg hsome⟩, rfl, rfl, rfl, rfl, rfl⟩
  case all =>
    have htake : (u.port.drop s.port.length).take n = es := by
      rw [hes] at hall ⊢
      exact (List.take_prefix n es).eq_of_length hall
    exact (congrArg (replayed s.par s.conv) htake).trans hmade.conv.symm

end Sys2Proof.Machine
end

section
/-! PROOFS. Every command ends within its bound, and the worked STARTUP (41_power_sequencer.md R126, R128, 70_reset_and_hazards.md
R305). -/

namespace Sys2Proof.Machine

/-- A step that answers a next state is one of the run's. -/
theorem run_succ_of_step {s t : State} (m : Nat) (h : step s = .next t) :
    Host.Core.run Sys2Proof.core (m + 1) s = Host.Core.run Sys2Proof.core m t := by
  have hcore : Sys2Proof.core.step s = .next t := h
  simp only [Host.Core.run, hcore]

section Counting

@[simp] theorem samples_append (p q : List PortEvent) : samples (p ++ q) = samples p + samples q := List.countP_append ..

@[simp] theorem waits_append (p q : List PortEvent) : waits (p ++ q) = waits p + waits q := List.countP_append ..

/-- Accesses of per-block fields are neither samples nor waits. -/
theorem samples_waits_of_onBlock {es : List PortEvent} (h : ∀ e ∈ es, e.onBlock = true) : samples es = 0 ∧ waits es = 0 := by
  constructor <;> refine List.countP_eq_zero.mpr fun e he => ?_
  all_goals
    have := h e he
    match e with
    | .read (.blk ..) _ | .write .. => simp

theorem samples_read (p : Poll) (k : Kind) (n : Fin 4) (v : Word) : samples [.read (.tile p.field k n) v] = 1 := by
  cases p <;> rfl

theorem waits_read (a : FieldAddr) (v : Word) : waits [.read a v] = 0 := rfl

theorem samples_restartState (k : Kind) (n : Fin 4) (v w : Word) : samples [.writeRestartState k n v w] = 0 := rfl

theorem waits_restartState (k : Kind) (n : Fin 4) (v w : Word) : waits [.writeRestartState k n v w] = 0 := rfl

theorem samples_write (a : FieldAddr) (v : Word) : samples [.write a v] = 0 := rfl

theorem waits_write (a : FieldAddr) (v : Word) : waits [.write a v] = 0 := rfl

theorem samples_wait : samples [.wait] = 0 := rfl

theorem waits_wait : waits [.wait] = 1 := rfl

end Counting

section Left

/-- How many engine steps are left at most: per tile a check, a write, a trigger, the samples and waits of both polls and the next
selection; before the tiles the walk's start, after them its end. -/
def stepsLeft (s : State) : Nat :=
  let l := s.par.lockMaxRetries
  let c := s.par.clrMaxRetries
  let wait := if s.timer then 1 else 0
  match s.seq with
  | .idle => 0
  | .exec => 4 * (2 * (l + c) + 6) + 3
  | .rSelect => (s.lastIdx + 1 - s.idx) * (2 * (l + c) + 6) + 2
  | .rCheck => (s.lastIdx - s.idx) * (2 * (l + c) + 6) + (2 * (l + c) + 7)
  | .rWrite => (s.lastIdx - s.idx) * (2 * (l + c) + 6) + (2 * (l + c) + 6)
  | .rTrigger => (s.lastIdx - s.idx) * (2 * (l + c) + 6) + (2 * (l + c) + 5)
  | .rLock => (s.lastIdx - s.idx) * (2 * (l + c) + 6) + (2 * (l - s.retry) + wait + (2 * c + 4))
  | .rClear => (s.lastIdx - s.idx) * (2 * (l + c) + 6) + (2 * (c - s.retry) + wait + 3)
  | .posting => 1

/-- How many samples are left at most: each poll's budget and one (R115, R116). -/
def samplesLeft (s : State) : Nat :=
  let l := s.par.lockMaxRetries
  let c := s.par.clrMaxRetries
  match s.seq with
  | .idle => 0
  | .exec => 4 * (l + c + 2)
  | .rSelect => (s.lastIdx + 1 - s.idx) * (l + c + 2)
  | .rCheck => (s.lastIdx - s.idx) * (l + c + 2) + (l + c + 2)
  | .rWrite => (s.lastIdx - s.idx) * (l + c + 2) + (l + c + 2)
  | .rTrigger => (s.lastIdx - s.idx) * (l + c + 2) + (l + c + 2)
  | .rLock => (s.lastIdx - s.idx) * (l + c + 2) + (l - s.retry + c + 2)
  | .rClear => (s.lastIdx - s.idx) * (l + c + 2) + (c - s.retry + 1)
  | .posting => 0

/-- How many waits are left at most: each poll's budget (R115, R116). -/
def waitsLeft (s : State) : Nat :=
  let l := s.par.lockMaxRetries
  let c := s.par.clrMaxRetries
  match s.seq with
  | .idle => 0
  | .exec => 4 * (l + c)
  | .rSelect => (s.lastIdx + 1 - s.idx) * (l + c)
  | .rCheck => (s.lastIdx - s.idx) * (l + c) + (l + c)
  | .rWrite => (s.lastIdx - s.idx) * (l + c) + (l + c)
  | .rTrigger => (s.lastIdx - s.idx) * (l + c) + (l + c)
  | .rLock => (s.lastIdx - s.idx) * (l + c) + (l - s.retry + c)
  | .rClear => (s.lastIdx - s.idx) * (l + c) + (c - s.retry)
  | .posting => 0

/-- One step of a running command, by what is left after it. -/
structure Progress (s t : State) : Prop where
  steps : stepsLeft t < stepsLeft s
  samples : samples t.port + samplesLeft t ≤ samples s.port + samplesLeft s
  waits : waits t.port + waitsLeft t ≤ waits s.port + waitsLeft s

variable {s t : State}

theorem stepsLeft_pos (hbusy : s.seq ≠ .idle) : 0 < stepsLeft s := by
  unfold stepsLeft
  cases hseq : s.seq with
  | idle => exact absurd hseq hbusy
  | _ => simp only; omega

/-- A step that ends the command leaves nothing, when it made no sample and no wait of its own. -/
theorem progress_of_ended (hbusy : s.seq ≠ .idle) (hseq : t.seq = .idle) (hsamples : samples t.port ≤ samples s.port + samplesLeft s)
    (hwaits : waits t.port ≤ waits s.port + waitsLeft s) : Progress s t := by
  refine ⟨?_, ?_, ?_⟩
  · rw [show stepsLeft t = 0 by simp [stepsLeft, hseq]]
    exact stepsLeft_pos hbusy
  · rwa [show samplesLeft t = 0 by simp [samplesLeft, hseq]]
  · rwa [show waitsLeft t = 0 by simp [waitsLeft, hseq]]

theorem Ended.progress (hbusy : s.seq ≠ .idle) (h : Ended s t) : Progress s t := by
  have hport : ∃ es, t.port = s.port ++ es ∧ ∀ e ∈ es, e.onBlock = true := by
    cases h with
    | ok hw | error _ _ hw =>
      obtain ⟨es, hmade, hes⟩ := hw.accesses
      exact ⟨es, hmade.port, hes⟩
  obtain ⟨es, hes, hblock⟩ := hport
  obtain ⟨hsamples, hwaits⟩ := samples_waits_of_onBlock hblock
  refine progress_of_ended hbusy (by cases h <;> rfl) ?_ ?_ <;> rw [hes] <;> simp [hsamples, hwaits]

theorem samplesLeft_pos {p : Poll} (h : s.seq = p.seq) : 1 ≤ samplesLeft s := by
  cases p <;> simp only [Poll.seq] at h <;> simp only [samplesLeft, h] <;> omega

variable {k : Kind} {tl : BitVec 3} {x y : BitVec 4} {c : Converter}

theorem WalkStep.progress (hs : s.Inv) (hbusy : s.seq ≠ .idle) (htl : restartSelectorOk tl = true)
    (h : WalkStep k tl x y c s t) : Progress s t := by
  cases h with
  | wait htimer =>
    rcases hs.timer htimer with hseq | hseq <;> constructor <;> simp [stepsLeft, samplesLeft, waitsLeft, hseq, htimer]
  | start htimer hseq =>
    obtain hseq : s.seq = .exec := hseq.resolve_left hbusy
    obtain ⟨hle, hlast⟩ := walkRange_of_selectorOk htl
    have htiles : (walkRange tl).2 + 1 - (walkRange tl).1 ≤ 4 := by omega
    constructor <;>
      simp only [stepsLeft, samplesLeft, waitsLeft, hseq, startWalk_seq, startWalk_lastIdx, startWalk_idx, startWalk_par,
        startWalk_port]
    · have := Nat.mul_le_mul_right (2 * (s.par.lockMaxRetries + s.par.clrMaxRetries) + 6) htiles
      omega
    · exact Nat.add_le_add_left (Nat.mul_le_mul_right _ htiles) _
    · exact Nat.add_le_add_left (Nat.mul_le_mul_right _ htiles) _
  | past htimer hseq hlast => constructor <;> simp [stepsLeft, samplesLeft, waitsLeft, hseq]
  | select htimer hseq hlast =>
    constructor <;> simp only [stepsLeft, samplesLeft, waitsLeft, hseq, Nat.succ_sub hlast, Nat.succ_mul] <;> omega
  | enabled htimer hseq => constructor <;> simp [stepsLeft, samplesLeft, waitsLeft, hseq]
  | unavailable n => exact progress_of_ended hbusy rfl (Nat.le_add_right _ _) (Nat.le_add_right _ _)
  | skipped e htimer hseq => constructor <;> simp [stepsLeft, samplesLeft, waitsLeft, hseq]
  | write n htimer hseq => constructor <;> 
    simp [walkWrite, portWriteRestartState, stepsLeft, samplesLeft, waitsLeft, hseq, samples_restartState, waits_restartState]
  | trigger n htimer hseq =>
    dsimp only [walkTrigger]
    split <;> constructor <;> simp [stepsLeft, samplesLeft, waitsLeft, hseq, htimer, samples_write, waits_write] <;> omega
  | locked n htimer hseq =>
    have hretry := hs.lockRetry hseq
    constructor <;> simp [stepsLeft, samplesLeft, waitsLeft, hseq, sampled, samples_read .lock, waits_read, htimer] <;> omega
  | cleared n htimer hseq =>
    constructor <;> simp [stepsLeft, samplesLeft, waitsLeft, hseq, sampled, samples_read .clear, waits_read, htimer]
    omega
  | timeout p n htimer hseq hretry =>
    have hleft : 1 ≤ samplesLeft s := samplesLeft_pos hseq
    refine progress_of_ended hbusy rfl ?_ ?_ <;> simp [sampled, samples_read, waits_read]
    omega
  | again p n htimer hseq hretry =>
    have hle : s.retry + 1 ≤ p.budget s.par := Nat.lt_of_le_of_ne (seq_of_poll_retry hs hseq) hretry
    cases p <;> constructor <;>
      simp only [Poll.seq] at hseq <;>
      simp only [Poll.budget] at hle <;>
      simp only [stepsLeft, samplesLeft, waitsLeft, hseq, htimer, waiting, sampled, samples_append, waits_append,
        samples_read .lock, samples_read .clear, waits_read, samples_wait, waits_wait, reduceIte, Bool.false_eq_true] <;> omega
  | posted htimer hseq => exact progress_of_ended hbusy rfl (Nat.le_add_right _ _) (Nat.le_add_right _ _)

/-- A step of a running command answers a state in which less is left, with no input queued and the same parameters. -/
theorem engineStep_progress (hs : s.Inv) (hbusy : s.seq ≠ .idle) :
    ∃ t, engineStep s = .next t ∧ t.Inv ∧ Progress s t ∧ t.hostIn = s.hostIn := by
  obtain ⟨t, hstep, ht⟩ := engineStep_inv hs
  refine ⟨t, hstep, ht, ?_⟩
  rcases engineStep_cases hbusy with ⟨u, hnext, hended⟩ | ⟨k, tl, x, y, c, _, _, htl, ⟨u, hnext, hwalk⟩ | ⟨_, _, hfault⟩⟩
  · cases hnext.symm.trans hstep
    exact ⟨hended.progress hbusy, hended.frame.hostIn⟩
  · cases hnext.symm.trans hstep
    exact ⟨hwalk.progress hs hbusy htl, hwalk.frame.hostIn⟩
  · cases hfault.symm.trans hstep

/-- A command that runs undisturbed ends within what is left for it. -/
theorem run_ends (n : Nat) : ∀ s : State, s.Inv → s.hostIn = [] → stepsLeft s ≤ n →
    ∃ m t, m ≤ n ∧ Host.Core.run Sys2Proof.core m s = .next t ∧ t.seq = .idle ∧ t.status.done = true ∧
      samples t.port ≤ samples s.port + samplesLeft s ∧ waits t.port ≤ waits s.port + waitsLeft s := by
  induction n with
  | zero =>
    intro s hs _ hn
    have hidle : s.seq = .idle := by
      by_contra hbusy
      exact absurd hn (Nat.not_le.mpr (stepsLeft_pos hbusy))
    exact ⟨0, s, Nat.le_refl _, rfl, hidle, by simp [hs.done, hidle], Nat.le_add_right _ _, Nat.le_add_right _ _⟩
  | succ n ih =>
    intro s hs hin hn
    by_cases hidle : s.seq = .idle
    · exact ⟨0, s, Nat.zero_le _, rfl, hidle, by simp [hs.done, hidle], Nat.le_add_right _ _, Nat.le_add_right _ _⟩
    · obtain ⟨t, hstep, ht, ⟨hsteps, hsamples, hwaits⟩, hhost⟩ := engineStep_progress hs hidle
      obtain ⟨m, u, hm, hrun, hseq, hdone, hsamples', hwaits'⟩ := ih t ht (hhost.trans hin) (by omega)
      refine ⟨m + 1, u, Nat.succ_le_succ hm, ?_, hseq, hdone, hsamples'.trans hsamples, hwaits'.trans hwaits⟩
      rw [run_succ_of_step m ((step_of_no_input hin).trans hstep), hrun]

/-- What is left of a walk within the tiles, from the bound on the last one (R112). -/
theorem left_le (hs : s.Inv) :
    stepsLeft s ≤ 4 * (2 * (s.par.lockMaxRetries + s.par.clrMaxRetries) + 6) + 3 ∧
      samplesLeft s ≤ 4 * (s.par.lockMaxRetries + s.par.clrMaxRetries + 2) ∧
      waitsLeft s ≤ 4 * (s.par.lockMaxRetries + s.par.clrMaxRetries) := by
  have hlast := hs.lastIdx
  have hselect (d : Nat) : (s.lastIdx + 1 - s.idx) * d ≤ 4 * d := Nat.mul_le_mul_right d (by omega)
  have htile (d : Nat) : (s.lastIdx - s.idx) * d ≤ 3 * d := Nat.mul_le_mul_right d (by omega)
  have hsteps := hselect (2 * (s.par.lockMaxRetries + s.par.clrMaxRetries) + 6)
  have hsteps' := htile (2 * (s.par.lockMaxRetries + s.par.clrMaxRetries) + 6)
  have hsamples := hselect (s.par.lockMaxRetries + s.par.clrMaxRetries + 2)
  have hsamples' := htile (s.par.lockMaxRetries + s.par.clrMaxRetries + 2)
  have hwaits := hselect (s.par.lockMaxRetries + s.par.clrMaxRetries)
  have hwaits' := htile (s.par.lockMaxRetries + s.par.clrMaxRetries)
  have htimer : (if s.timer then 1 else 0) ≤ 1 := by split <;> omega
  cases hseq : s.seq <;> simp only [stepsLeft, samplesLeft, waitsLeft, hseq] <;> omega

/-- Settles O60, by what is left after each step: less steps each time, and a sample or wait only from what is left of them. -/
theorem commandsEndWithinBound : Obligations.CommandsEndWithinBound := by
  intro s hs hin _
  obtain ⟨hsteps, hsamples, hwaits⟩ := left_le hs
  obtain ⟨m, t, hm, hrun, hseq, hdone, hsamples', hwaits'⟩ := run_ends (stepsLeft s) s hs hin (Nat.le_refl _)
  exact ⟨m, t, hm.trans hsteps, hrun, hseq, hdone, hsamples'.trans (Nat.add_le_add_left hsamples _),
    hwaits'.trans (Nat.add_le_add_left hwaits _)⟩

end Left

section Startup

variable {s u v : State} {c : Converter}

/-- One step of R126's walk, its command latched. -/
theorem run_startup {q : Seq} {m : Nat} (hin : u.hostIn = []) (hcmd : u.cmdL = 0x1000010F) (hc : u.inst = some c) (hseq : u.seq = q)
    (hwalk : walkStep .adc 0 1 15 c u = .next v) (hbusy : q ≠ .idle := by decide) :
    Host.Core.run Sys2Proof.core (m + 1) u = Host.Core.run Sys2Proof.core m v := by
  have hdec : decode u.cmdL = .ok (.restart .adc 0 1 15) := by
    rw [hcmd]
    rfl
  refine run_succ_of_step m ?_
  rw [step_of_decode_ok (hseq ▸ hbusy) hin hdec, exec_restart_of .adc 1 15 hc (.inl (by decide)), hwalk]

/-- Where R126's STARTUP, begun in `s`, stands in `u`: the sequencer's state, the poll timer, the retries, the tiles' further
answers and the accesses made. -/
structure StartupAt (s : State) (c : Converter) (q : Seq) (timer : Bool) (retry : Nat) (tiles : List Bool) (es : List PortEvent)
    (u : State) : Prop where
  hostIn : u.hostIn = []
  cmdL : u.cmdL = 0x1000010F
  inst : u.inst = some c
  idx : u.idx = 0
  lastIdx : u.lastIdx = 0
  inp : u.inp = s.inp
  par : u.par = s.par
  overrun : u.status.overrun = s.status.overrun
  powered : q = .rTrigger ∨ q = .rLock ∨ q = .rClear → u.endEff = 15
  seq : u.seq = q
  timer : u.timer = timer
  retry : u.retry = retry
  tiles : u.tileIn = tiles
  port : u.port = s.port ++ es

namespace StartupAt

variable {q : Seq} {timer : Bool} {r : Nat} {tiles : List Bool} {es : List PortEvent}

theorem run (h : StartupAt s c q timer r tiles es u) (hwalk : walkStep .adc 0 1 15 c u = .next v) {m : Nat}
    (hbusy : q ≠ .idle := by decide) : Host.Core.run Sys2Proof.core (m + 1) u = Host.Core.run Sys2Proof.core m v :=
  run_startup h.hostIn h.cmdL h.inst h.seq hwalk hbusy

theorem answer {b : Bool} (h : StartupAt s c q timer r (b :: tiles) es u) : nextAnswer u = b := by
  simp [nextAnswer, h.tiles]

theorem select (h : StartupAt s c .rSelect false r tiles es u) :
    ∃ v, walkStep .adc 0 1 15 c u = .next v ∧ StartupAt s c .rCheck false r tiles es v := by
  refine ⟨_, walkStep_of_rSelect _ _ _ _ _ h.timer h.seq, ?_⟩
  rw [walkSelect, if_neg (by rw [h.idx, h.lastIdx]; decide)]
  exact { h with seq := rfl, powered := by simp }

theorem check (h : StartupAt s c .rCheck false r tiles es u) (hon : s.inp.tileOn .adc 0 = true) :
    ∃ v, walkStep .adc 0 1 15 c u = .next v ∧ StartupAt s c .rWrite false r tiles es v := by
  refine ⟨_, walkStep_of_rCheck (n := 0) _ _ _ _ _ h.timer h.seq h.idx, ?_⟩
  rw [walkCheck, if_pos (by rwa [h.inp])]
  exact { h with seq := rfl, powered := by simp }

theorem write (h : StartupAt s c .rWrite false r tiles es u) :
    ∃ v, walkStep .adc 0 1 15 c u = .next v ∧
      StartupAt s c .rTrigger false r tiles (es ++ [.writeRestartState .adc 0 1 15]) v := by
  have hstop : downgrade u.inp c .adc 0 15 = 15 := by simp [downgrade]
  refine ⟨_, walkStep_of_rWrite (n := 0) _ _ _ _ _ h.timer h.seq h.idx, ?_⟩
  rw [walkWrite, hstop]
  exact { h with seq := rfl, powered := fun _ => rfl, port := by simp [portWriteRestartState, h.port] }

theorem trigger (h : StartupAt s c .rTrigger false r tiles es u) (hpll : (c.tileAt .adc 0).clkSrc = .internalPll) :
    ∃ v, walkStep .adc 0 1 15 c u = .next v ∧
      StartupAt s c .rLock false 0 tiles (es ++ [.write (.tile .restartGo .adc 0) 1]) v := by
  have hpowered := h.powered (.inl rfl)
  refine ⟨_, walkStep_of_rTrigger (n := 0) _ _ _ _ _ h.timer h.seq h.idx, ?_⟩
  rw [walkTrigger, if_pos ⟨hpll, by rw [hpowered]; rfl⟩]
  exact { h with seq := rfl, retry := rfl, powered := fun _ => hpowered, port := by simp [h.port] }

theorem wait (h : StartupAt s c q true r tiles es u) :
    ∃ v, walkStep .adc 0 1 15 c u = .next v ∧ StartupAt s c q false r tiles es v :=
  ⟨_, walkStep_of_timer _ _ _ _ _ h.timer, { h with timer := rfl }⟩

theorem lockAgain (h : StartupAt s c .rLock false r (false :: tiles) es u) (hretry : r ≠ s.par.lockMaxRetries) :
    ∃ v, walkStep .adc 0 1 15 c u = .next v ∧
      StartupAt s c .rLock true (r + 1) tiles (es ++ [.read (.tile .pllLocked .adc 0) 0, .wait]) v := by
  refine ⟨_, walkStep_of_rLock (n := 0) _ _ _ _ _ h.timer h.seq h.idx, ?_⟩
  rw [walkLock_eq, h.answer, if_neg nofun, pollAgain_of_not_budget (by rwa [h.retry, h.par])]
  exact {
    h with
    timer := rfl
    retry := congrArg (· + 1) h.retry
    tiles := by simp [waiting, sampled, h.tiles]
    port := by simp [waiting, sampled, h.answer, h.port, Poll.field] }

theorem locked (h : StartupAt s c .rLock false r (true :: tiles) es u) :
    ∃ v, walkStep .adc 0 1 15 c u = .next v ∧
      StartupAt s c .rClear false 0 tiles (es ++ [.read (.tile .pllLocked .adc 0) 1]) v := by
  refine ⟨_, walkStep_of_rLock (n := 0) _ _ _ _ _ h.timer h.seq h.idx, ?_⟩
  rw [walkLock_eq, h.answer, if_pos rfl]
  exact {
    h with
    seq := rfl
    powered := fun _ => h.powered (.inr (.inl rfl))
    retry := rfl
    tiles := by simp [sampled, h.tiles]
    port := by simp [sampled, h.answer, h.port, Poll.field] }

theorem clearAgain (h : StartupAt s c .rClear false r (true :: tiles) es u) (hretry : r ≠ s.par.clrMaxRetries) :
    ∃ v, walkStep .adc 0 1 15 c u = .next v ∧
      StartupAt s c .rClear true (r + 1) tiles (es ++ [.read (.tile .restartGo .adc 0) 1, .wait]) v := by
  refine ⟨_, walkStep_of_rClear (n := 0) _ _ _ _ _ h.timer h.seq h.idx, ?_⟩
  rw [walkClear_eq, h.answer, if_neg nofun, pollAgain_of_not_budget (by rwa [h.retry, h.par])]
  exact {
    h with
    timer := rfl
    retry := congrArg (· + 1) h.retry
    tiles := by simp [waiting, sampled, h.tiles]
    port := by simp [waiting, sampled, h.answer, h.port, Poll.field] }

/-- The sample that ends the clear poll records the power state. -/
theorem cleared (h : StartupAt s c .rClear false r (false :: tiles) es u) :
    ∃ v d, walkStep .adc 0 1 15 c u = .next v ∧ v.inst = some d ∧ (d.tileAt .adc 0).pwr = 15 ∧ v.hostIn = [] ∧
      v.cmdL = 0x1000010F ∧ v.seq = .rSelect ∧ v.timer = false ∧ v.lastIdx < v.idx ∧ v.status.overrun = s.status.overrun ∧
      v.port = s.port ++ (es ++ [.read (.tile .restartGo .adc 0) 0]) := by
  refine ⟨_, c.setTile .adc 0 { c.tileAt .adc 0 with pwr := u.endEff.toNat },
    walkStep_of_rClear (n := 0) _ _ _ _ _ h.timer h.seq h.idx, ?_⟩
  rw [walkClear_eq, h.answer, if_pos rfl]
  refine ⟨rfl, ?_, h.hostIn, h.cmdL, rfl, h.timer, ?_, h.overrun, ?_⟩
  · simp [setTile_tileAt, h.powered (.inr (.inr rfl))]
  · simp [sampled, h.idx, h.lastIdx]
  · simp [sampled, h.answer, h.port, Poll.field]

end StartupAt

/-- Settles O59, one step at a time. -/
theorem startupWorkedExample : Obligations.StartupWorkedExample := by
  intro s c later hin hseq htimer hidx hlast hcmd hc hon hpll hlock hclear htiles
  have h0 : StartupAt s c .rSelect false s.retry s.tileIn [] s :=
    ⟨hin, hcmd, hc, hidx, hlast, rfl, rfl, rfl, by simp, hseq, htimer, rfl, rfl, (List.append_nil _).symm⟩
  rw [htiles] at h0
  obtain ⟨u1, hstep0, h1⟩ := h0.select
  obtain ⟨u2, hstep1, h2⟩ := h1.check hon
  obtain ⟨u3, hstep2, h3⟩ := h2.write
  obtain ⟨u4, hstep3, h4⟩ := h3.trigger hpll
  obtain ⟨u5, hstep4, h5⟩ := h4.lockAgain (by omega)
  obtain ⟨u6, hstep5, h6⟩ := h5.wait
  obtain ⟨u7, hstep6, h7⟩ := h6.lockAgain (by omega)
  obtain ⟨u8, hstep7, h8⟩ := h7.wait
  obtain ⟨u9, hstep8, h9⟩ := h8.locked
  obtain ⟨u10, hstep9, h10⟩ := h9.clearAgain (by omega)
  obtain ⟨u11, hstep10, h11⟩ := h10.wait
  obtain ⟨u12, d, hstep11, hd, hpwr, hin12, hcmd12, hseq12, htimer12, hlast12, hoverrun, hport⟩ := h11.cleared
  have hpast : walkStep .adc 0 1 15 d u12 = .next { u12 with seq := .posting } := by
    rw [walkStep_of_rSelect _ _ _ _ _ htimer12 hseq12, walkSelect, if_pos hlast12]
  refine ⟨postOk { u12 with seq := .posting }, d, ?_, .of_overrun hoverrun, hd, hpwr, hport⟩
  rw [h0.run hstep0, h1.run hstep1, h2.run hstep2, h3.run hstep3, h4.run hstep4, h5.run hstep5, h6.run hstep6, h7.run hstep7,
    h8.run hstep8, h9.run hstep9, h10.run hstep10, h11.run hstep11, run_startup hin12 hcmd12 hd hseq12 hpast]
  exact run_startup (q := .posting) (m := 0) hin12 hcmd12 hd rfl (walkStep_of_posting _ _ _ _ _ htimer12 rfl)

end Startup

end Sys2Proof.Machine
end

section
/-! PROOFS. The mixer's exact arithmetic: NORMALISE's loops, the frequency and phase words and their readbacks (44_mixer_nco.md
sections 1 and 2, R199 to R201, R209, R210). -/

namespace Sys2Proof.Machine

section Division

/-- Truncation is floor division of the absolute value, with the sign put back (R8). -/
theorem truncDiv_of_nonneg {n d : Int} (hn : 0 ≤ n) : truncDiv n d = n / d := Int.tdiv_eq_ediv_of_nonneg hn

theorem truncDiv_neg (n d : Int) : truncDiv (-n) d = -truncDiv n d := Int.neg_tdiv ..

theorem truncDiv_of_neg {n d : Int} (hn : n < 0) : truncDiv n d = -(-n / d) := by
  rw [← truncDiv_of_nonneg (by omega), truncDiv_neg, Int.neg_neg]

/-- Truncation leaves less than a unit, and nothing further from zero (R8). -/
theorem truncDiv_bounds (n : Int) {d : Int} (hd : 0 < d) : |n - truncDiv n d * d| < d ∧ |truncDiv n d * d| ≤ |n| := by
  wlog hn : 0 ≤ n generalizing n
  · have hneg := this (-n) (by omega)
    rwa [truncDiv_neg, Int.neg_mul, abs_neg, abs_neg, neg_sub_neg, abs_sub_comm] at hneg
  · have hlow := Int.mul_nonneg (Int.ediv_nonneg hn hd.le) hd.le
    have hle := Int.ediv_mul_le n hd.ne'
    have hlt := Int.lt_ediv_add_one_mul_self n hd
    rw [Int.add_mul] at hlt
    rw [truncDiv_of_nonneg hn, abs_lt, abs_of_nonneg hlow, abs_of_nonneg hn]
    omega

/-- What is within half a unit of a whole number is rounded to it (R8). -/
theorem roundDiv_eq {n q : Int} (h : |n - q * 2 ^ 50| < 2 ^ 49) : roundDiv n (4 * 2 ^ 48) = q := by
  rw [abs_lt] at h
  unfold roundDiv
  split <;> omega

end Division

section Normalise

variable {f : Int} {h : Nat}

theorem adjustments_neg (f : Int) (h : Nat) : adjustments (-f) h = -adjustments f h := by
  unfold adjustments
  by_cases hlow : f < -(h : Int)
  · rw [if_neg (by omega), if_pos (by omega), if_pos hlow, show -f + h - 1 = h - f - 1 by omega]
  · by_cases hhigh : (h : Int) < f
    · rw [if_pos (by omega), if_neg hlow, if_pos hhigh, show (h : Int) - -f - 1 = f + h - 1 by omega, Int.neg_neg]
    · rw [if_neg (by omega), if_neg (by omega), if_neg hlow, if_neg hhigh, Int.neg_zero]

/-- Below -E/2 one addition is made, and then those of the sum (R199). -/
theorem adjustments_below (hh : 0 < h) (hf : f < -(h : Int)) : adjustments f h = adjustments (f + 2 * h) h + 1 := by
  have hquot : ((h : Int) - f - 1) / (2 * h) = ((h : Int) - (f + 2 * h) - 1) / (2 * h) + 1 := by
    rw [show (h : Int) - f - 1 = (h - (f + 2 * h) - 1) + 1 * (2 * h) by omega, Int.add_mul_ediv_right _ _ (by omega)]
  unfold adjustments
  rw [if_pos hf, hquot]
  split_ifs with hagain habove
  · rfl
  · omega
  · rw [Int.ediv_eq_zero_of_lt (by omega) (by omega)]

theorem normalise_neg (f : Int) (h : Nat) : normalise (-f) h = (-(normalise f h).1, -(normalise f h).2) := by
  simp only [normalise, adjustments_neg, Int.neg_mul, Int.neg_add]

theorem normalise_below (hh : 0 < h) (hf : f < -(h : Int)) :
    normalise f h = ((normalise (f + 2 * h) h).1, (normalise (f + 2 * h) h).2 + 1) := by
  simp only [normalise, adjustments_below hh hf, Int.add_mul]
  rw [Prod.mk.injEq]
  omega

theorem normalise_above (hh : 0 < h) (hf : (h : Int) < f) :
    normalise f h = ((normalise (f - 2 * h) h).1, (normalise (f - 2 * h) h).2 - 1) := by
  have hbelow := normalise_below (f := -f) hh (by omega)
  rw [show -f + 2 * h = -(f - 2 * h) by omega, normalise_neg, normalise_neg] at hbelow
  rw [Prod.mk.injEq] at hbelow
  obtain ⟨hfreq, hadj⟩ := hbelow
  exact Prod.ext (by dsimp only; omega) (by dsimp only; omega)

/-- A frequency below -E/2 is brought to at least -E/2 (R199). -/
theorem normalise_range_below (hh : 0 < h) (hf : f < -(h : Int)) : -(h : Int) ≤ (normalise f h).1 ∧ (normalise f h).1 ≤ h := by
  have hpos : (0 : Int) < 2 * h := by omega
  have hdiv := Int.ediv_mul_le ((h : Int) - f - 1) hpos.ne'
  have hmod := Int.lt_ediv_add_one_mul_self ((h : Int) - f - 1) hpos
  simp only [normalise, adjustments, if_pos hf]
  rw [Int.add_mul] at hmod
  omega

/-- Settles O41: the loop below by one more quotient, the loop above by symmetry. -/
theorem normaliseFollowsLoops : Obligations.NormaliseFollowsLoops := by
  intro f h hh
  refine ⟨normalise_below hh, normalise_above hh, normalise_of_within, ?_⟩
  by_cases hlow : f < -(h : Int)
  · exact normalise_range_below hh hlow
  · by_cases hhigh : (h : Int) < f
    · have hneg := normalise_range_below (f := -f) hh (by omega)
      rw [normalise_neg] at hneg
      omega
    · rw [normalise_of_within (by omega) (by omega)]
      omega

end Normalise

section FrequencyWord

variable {freq : BitVec 64} {h : Nat} {q : Bool} {z : Zone} {x : Int}

/-- The frequency the word of a legal request encodes, in quarter hertz (R199). -/
def encodedFreq (freq : BitVec 64) (h : Nat) (q : Bool) (z : Zone) : Int :=
  if q = false then 4 * freq.toInt
  else if -(h : Int) ≤ 4 * freq.toInt - h then 4 * freq.toInt - h
  else if z = .even then -(4 * freq.toInt + h) else 4 * freq.toInt + h

/-- NORMALISE of a legal request: an adjustment is made only under the compensation, of a negative frequency (R198, R199). -/
theorem normalise_compensated (hh : 0 < h) (hlegal : 4 * |freq.toInt| ≤ (h : Int)) :
    normalise (compensated freq h q) h =
      if q = false then (4 * freq.toInt, 0) else if 0 ≤ freq.toInt then (4 * freq.toInt - h, 0) else (4 * freq.toInt + h, 1) := by
  have hrange := abs_le.mp (show |freq.toInt| ≤ (h : Int) / 4 by omega)
  cases q with
  | false =>
    have hcomp : compensated freq h false = 4 * freq.toInt := Int.sub_zero _
    rw [hcomp]
    exact normalise_of_within (by omega) (by omega)
  | true =>
    have hcomp : compensated freq h true = 4 * freq.toInt - h := rfl
    rw [hcomp, if_neg nofun]
    split
    · exact normalise_of_within (by omega) (by omega)
    · rw [normalise_below hh (by omega), show 4 * freq.toInt - h + 2 * h = 4 * freq.toInt + h by omega,
        normalise_of_within (by omega) (by omega)]
      rfl

/-- Truncated over E/2^48, a frequency within half the effective rate fits 48 bits but for +E/2 (R199, R200). -/
theorem truncDiv_fits (hh : 0 < h) (hlow : -(h : Int) ≤ x) (hhigh : x < h) :
    -2 ^ 47 ≤ truncDiv (x * 2 ^ 48) (2 * h) ∧ truncDiv (x * 2 ^ 48) (2 * h) < 2 ^ 47 := by
  have hpos : (0 : Int) < 2 * h := by omega
  by_cases hx : 0 ≤ x
  · rw [truncDiv_of_nonneg (by omega)]
    have hnonneg : 0 ≤ x * 2 ^ 48 / (2 * h) := Int.ediv_nonneg (by omega) hpos.le
    exact ⟨by omega, Int.ediv_lt_of_lt_mul hpos (by omega)⟩
  · rw [truncDiv_of_neg (by omega)]
    have hnonneg : 0 ≤ -(x * 2 ^ 48) / (2 * h) := Int.ediv_nonneg (by omega) hpos.le
    have hle : -(x * 2 ^ 48) / (2 * h) ≤ 2 ^ 47 := Int.ediv_le_of_le_mul hpos (by omega)
    omega

/-- The word of a legal request is the frequency it encodes, over E/2^48, truncated and wrapped (R199). -/
theorem freqWord_eq (hh : 0 < h) (hlegal : 4 * |freq.toInt| ≤ (h : Int)) :
    freqWord freq h q z = BitVec.ofInt 48 (truncDiv (encodedFreq freq h q z * 2 ^ 48) (2 * h)) := by
  unfold freqWord
  rw [normalise_compensated hh hlegal]
  cases q with
  | false => rfl
  | true =>
    by_cases hf : 0 ≤ freq.toInt
    · have : -(h : Int) ≤ 4 * freq.toInt - h := by omega
      simp [encodedFreq, inverted, hf]
    · have : ¬-(h : Int) ≤ 4 * freq.toInt - h := by omega
      cases z <;> simp [encodedFreq, inverted, hf]

theorem encodedFreq_range (hlegal : 4 * |freq.toInt| ≤ (h : Int)) :
    -(h : Int) ≤ encodedFreq freq h q z ∧ encodedFreq freq h q z ≤ h := by
  have hrange := abs_le.mp (show |freq.toInt| ≤ (h : Int) / 4 by omega)
  unfold encodedFreq
  split_ifs <;> omega

/-- Both ends of the range have the one word of -E/2 (R200). -/
theorem wrapped_end (hh : 0 < h) (hx : x = h ∨ x = -(h : Int)) :
    BitVec.ofInt 48 (truncDiv (x * 2 ^ 48) (2 * h)) = 0x800000000000#48 := by
  have hpos : (0 : Int) < 2 * h := by omega
  have hend : truncDiv ((h : Int) * 2 ^ 48) (2 * h) = 2 ^ 47 := by
    rw [truncDiv_of_nonneg (by omega)]
    exact Int.ediv_eq_of_eq_mul_left hpos.ne' (by omega)
  rcases hx with rfl | rfl
  · rw [hend]
    rfl
  · rw [Int.neg_mul, truncDiv_neg, hend]
    rfl

theorem toInt_freqWord (hh : 0 < h) (hlegal : 4 * |freq.toInt| ≤ (h : Int)) (hx : encodedFreq freq h q z < h) :
    (freqWord freq h q z).toInt = truncDiv (encodedFreq freq h q z * 2 ^ 48) (2 * h) := by
  obtain ⟨hlow, hhigh⟩ := truncDiv_fits hh (encodedFreq_range hlegal).1 hx
  rw [freqWord_eq hh hlegal, BitVec.toInt_ofInt_eq_self (by decide) (by simpa using hlow) (by simpa using hhigh)]

/-- Settles O42. -/
theorem frequencyWordRange : Obligations.FrequencyWordRange := by
  intro freq h q z x hh hlegal hplain hkept hadded
  have hx : x = encodedFreq freq h q z := by
    unfold encodedFreq
    split_ifs with hq hin hz
    · exact hplain hq
    · exact hkept (by simpa using hq) hin
    · simpa [hz] using hadded (by simpa using hq) (by omega)
    · simpa [hz] using hadded (by simpa using hq) (by omega)
  subst hx
  obtain ⟨hlow, hhigh⟩ := encodedFreq_range (q := q) (z := z) hlegal
  refine ⟨hlow, hhigh, fun hend => (freqWord_eq hh hlegal).trans (wrapped_end hh hend), fun hlt => ?_⟩
  rw [toInt_freqWord hh hlegal hlt]
  exact truncDiv_bounds _ (by omega)

/-- Only +E/2 without compensation encodes +E/2 (R200). -/
theorem encodedFreq_eq_half_iff (hh : 0 < h) (hlegal : 4 * |freq.toInt| ≤ (h : Int)) :
    encodedFreq freq h q z = h ↔ 4 * freq.toInt = (h : Int) ∧ q = false := by
  have hrange := abs_le.mp (show |freq.toInt| ≤ (h : Int) / 4 by omega)
  unfold encodedFreq
  cases q with
  | false => simp
  | true =>
    simp only [Bool.true_eq_false, reduceIte, and_false, iff_false]
    split_ifs <;> omega

/-- The readback of a word of a legal request, with the adjustment and the compensation taken back (R210). -/
theorem denormalise_eq (hh : 0 < h) (hlegal : 4 * |freq.toInt| ≤ (h : Int)) (fw : BitVec 48) :
    denormalise fw h q freq z =
      roundDiv (if q = false then fw.toInt * (2 * h)
        else if 0 ≤ freq.toInt then fw.toInt * (2 * h) + h * 2 ^ 48
        else if z = .even then -(fw.toInt * (2 * h)) - h * 2 ^ 48 else fw.toInt * (2 * h) - h * 2 ^ 48) (4 * 2 ^ 48) := by
  unfold denormalise
  rw [normalise_compensated hh hlegal]
  generalize fw.toInt * (2 * h) = w
  refine congrArg (roundDiv · (4 * 2 ^ 48)) ?_
  cases q with
  | false => simp [inverted]
  | true =>
    by_cases hf : 0 ≤ freq.toInt
    · simp [inverted, hf]
    · cases z <;> simp [inverted, hf] <;> omega

/-- Settles O43: the word's truncation error is less than half a hertz, which the rounding of the readback takes away. -/
theorem frequencyRoundTrip : Obligations.FrequencyRoundTrip := by
  intro freq h q z hh hsmall hlegal
  rw [denormalise_eq hh hlegal]
  by_cases hend : encodedFreq freq h q z = h
  · obtain ⟨hfreq, rfl⟩ := (encodedFreq_eq_half_iff hh hlegal).mp hend
    have hword : (freqWord freq h false z).toInt = -2 ^ 47 := by
      rw [freqWord_eq hh hlegal, wrapped_end hh (.inl hend)]
      rfl
    rw [if_pos rfl, if_pos ⟨hfreq, rfl⟩, hword]
    exact roundDiv_eq (abs_lt.mpr (by omega))
  · have hlt : encodedFreq freq h q z < h := lt_of_le_of_ne (encodedFreq_range hlegal).2 hend
    have herror := (truncDiv_bounds (encodedFreq freq h q z * 2 ^ 48) (show (0 : Int) < 2 * h by omega)).1
    rw [← toInt_freqWord hh hlegal hlt, abs_lt, encodedFreq] at herror
    rw [if_neg (c := _ ∧ _) (fun hhalf => hend ((encodedFreq_eq_half_iff hh hlegal).mpr hhalf))]
    refine roundDiv_eq (abs_lt.mpr ?_)
    split_ifs at herror ⊢ <;> omega

end FrequencyWord

section PhaseWord

theorem toInt_phaseWord {ph : BitVec 32} (hlow : -180000 < ph.toInt) (hhigh : ph.toInt < 180000) :
    (phaseWord ph).toInt = if 0 ≤ ph.toInt then ph.toInt * 65536 / 180000 else -(-(ph.toInt * 65536) / 180000) := by
  have htrunc : truncDiv (ph.toInt * 2 ^ 16) 180000 =
      if 0 ≤ ph.toInt then ph.toInt * 65536 / 180000 else -(-(ph.toInt * 65536) / 180000) := by
    split
    · rw [truncDiv_of_nonneg (by omega)]
      omega
    · rw [truncDiv_of_neg (by omega)]
      omega
  have hfits : -65536 ≤ truncDiv (ph.toInt * 2 ^ 16) 180000 ∧ truncDiv (ph.toInt * 2 ^ 16) 180000 < 65536 := by
    rw [htrunc]
    split <;> omega
  rw [phaseWord, BitVec.toInt_ofInt_eq_self (by decide) (by simpa using hfits.1) (by simpa using hfits.2), htrunc]

/-- Settles O44. -/
theorem phaseWordWithinOneLsb : Obligations.PhaseWordWithinOneLsb := by
  intro ph hlow hhigh
  have hword := toInt_phaseWord hlow hhigh
  have hread : phaseRead (phaseWord ph) =
      if 0 ≤ (phaseWord ph).toInt then (2 * ((phaseWord ph).toInt * 180000) + 65536) / 131072
      else -((2 * -((phaseWord ph).toInt * 180000) + 65536) / 131072) := by
    unfold phaseRead roundDiv
    split <;> split <;> omega
  have hreadback : (BitVec.ofInt 32 (phaseRead (phaseWord ph))).toInt = phaseRead (phaseWord ph) :=
    BitVec.toInt_ofInt_eq_self (by decide) (by simp; omega) (by simp; omega)
  have hword' := toInt_phaseWord (ph := BitVec.ofInt 32 (phaseRead (phaseWord ph))) (by omega) (by omega)
  rw [hreadback] at hword'
  rw [abs_mul ph.toInt (2 ^ 16), abs_pow, abs_two]
  rcases Int.le_total 0 ph.toInt with hsign | hsign
  · rw [abs_of_nonneg hsign]
    simp only [abs_lt, abs_le]
    omega
  · have hquot : 0 ≤ -(ph.toInt * 65536) / 180000 := Int.ediv_nonneg (by omega) (by decide)
    rw [abs_of_nonpos hsign]
    simp only [abs_lt, abs_le]
    omega

end PhaseWord

end Sys2Proof.Machine
end

section
/-! PROOFS. SET_MIXER: its errors in order, the settings word, and what it programs over the span (44_mixer_nco.md section 1, R190 to
R207). -/

namespace Sys2Proof.Machine

section Codes

/-! Each code of the settings word's fields stands for its one value (R88 to R92). -/

theorem typeOf_eq_some {v : BitVec 2} {ty : MixType} : typeOf v = some ty ↔ v = typeCode ty := by
  revert v
  cases ty <;> decide

theorem modeOf_eq_some {v : BitVec 3} {md : MixMode} : modeOf v = some md ↔ v = modeCode md := by
  revert v
  cases md <;> decide

theorem selOf_eq_some {v : BitVec 3} {sl : CoarseSel} : selOf v = some sl ↔ v = selCode sl := by
  revert v
  cases sl <;> decide

theorem evtOf_eq_some {v : BitVec 3} {ev : EventSrc} : evtOf v = some ev ↔ v = evtCode ev := by
  revert v
  cases ev <;> decide

theorem scaleOf_eq_some {v : BitVec 2} {sc : MixScale} : scaleOf v = some sc ↔ v = scaleCode sc := by
  revert v
  cases sc <;> decide

/-- Which settings words are legal, and what settings they stand for (R87, R192). -/
theorem settingsOf_eq_some {w : Word} {x : Settings} :
    settingsOf w = some x ↔
      w.extractLsb' 13 19 = 0#19 ∧ w.extractLsb' 0 2 = typeCode x.type ∧ w.extractLsb' 2 3 = modeCode x.mode ∧
        w.extractLsb' 5 3 = selCode x.sel ∧ w.extractLsb' 8 3 = evtCode x.evt ∧ w.extractLsb' 11 2 = scaleCode x.scale := by
  rw [← typeOf_eq_some, ← modeOf_eq_some, ← selOf_eq_some, ← evtOf_eq_some, ← scaleOf_eq_some]
  unfold settingsOf bits
  split
  · next hreserved => exact ⟨nofun, fun h => absurd h.1 hreserved⟩
  · next hreserved =>
    split
    · next ty md sl ev sc hty hmd hsl hev hsc =>
      simp only [hty, hmd, hsl, hev, hsc, Option.some.injEq]
      constructor
      · rintro rfl
        exact ⟨not_not.mp hreserved, rfl, rfl, rfl, rfl, rfl⟩
      · rintro ⟨_, rfl, rfl, rfl, rfl, rfl⟩
        rfl
    · next hnone =>
      simp only [reduceCtorEq, false_iff, not_and]
      intro _ hty hmd hsl hev hsc
      exact hnone _ _ _ _ _ hty hmd hsl hev hsc

end Codes

section Errors

variable {k : Kind} {tl : BitVec 3} {n b : Fin 4} {s : State} {c : Converter} {x : Settings} {e : Err}

theorem exec_setMixer_of_error (hc : s.inst = some c) (htl : tileOf tl = some n) (havail : available s.inp k n b = .ok ())
    (hchecks : mixerChecks s c k n b s.argL = .error e) : exec (.setMixer k tl b) s = .next (raise e none s) := by
  change execSetMixer k tl b s = _
  simp [execSetMixer, onBlock_of _ hc htl havail, setMixerRule, hchecks]

/-- R194's check. -/
theorem eventOk_iff {i : Inputs} {par : Params} {ev : EventSrc} :
    eventOk i par k n ev = true ↔ (k = .adc → ev ≠ .marker ∧ (i.hs .adc n = true → ev ∈ par.hsEventSet)) := by
  cases k <;> simp [eventOk, imp_iff_not_or]

/-- Settles O40. -/
theorem setMixerErrorsInOrder : Obligations.SetMixerErrorsInOrder := by
  intro k tl n b s c hc htl ht hb hp
  have herror {e : Err} : mixerChecks s c k n b s.argL = .error e → exec (.setMixer k tl b) s = .next (raise e none s) :=
    exec_setMixer_of_error hc (tileOf_of_toNat htl) (available_ok.mpr ⟨ht, hb, hp⟩)
  refine ⟨fun hnone => herror (by simp [mixerChecks, hnone]), fun x hx => ⟨fun hbad => herror ?inconsistent, ?invalid⟩⟩
  case inconsistent =>
    simp only [mixerChecks, hx]
    by_cases hbypass : k = .dac ∧ (c.blkAt k n b).dpMode = .fullBwBypass
    · rw [if_pos hbypass]
    · have hcons : consistent x = false := by
        rw [Bool.eq_false_iff, Ne, consistent_iff]
        rintro ⟨hoff, hfine, hcoarse⟩
        rcases hbad with h | h | h | h
        · exact hbypass h
        · exact h hoff
        · exact hfine h
        · exact hcoarse h
      rw [if_neg hbypass, if_pos hcons]
  case invalid =>
    intro hbypass hoff hfine hcoarse hbad
    have hcons : consistent x = true := consistent_iff.mpr ⟨hoff, hfine, hcoarse⟩
    apply herror
    simp only [mixerChecks, hx, if_neg hbypass, hcons, Bool.true_eq_false, if_false]
    split_ifs with hevt hphase hfreq
    · rfl
    · rfl
    · rfl
    · rw [Bool.not_eq_false, eventOk_iff] at hevt
      unfold phaseArg at hphase
      rcases hbad with ⟨rfl, hmarker | ⟨hhs, hset⟩⟩ | hlow | hhigh | hlimit
      · exact absurd hmarker (hevt rfl).1
      · exact absurd ((hevt rfl).2 hhs) hset
      · exact absurd (.inl hlow) hphase
      · exact absurd (.inr hhigh) hphase
      · exact absurd hlimit hfreq

end Errors

section Effect

variable {k : Kind} {n b : Fin 4} {s : State} {c : Converter} {x : Settings}

theorem dtypeOf_bit (cat : Category) : dtypeOf (cat.bit.setWidth 32) = cat := by
  cases cat <;> rfl

/-- Every value SET_MIXER writes fits its field (R203, R204). -/
theorem mixerBlockWrites_fit {a : ArgLatch} {p : Fin 4} {w : FieldAddr × Word}
    (hw : w ∈ mixerBlockWrites s.inp s.par c k n b x a p) : lowBits (w.1.width s.par) w.2 = w.2 := by
  simp only [mixerBlockWrites, List.mem_cons, List.not_mem_nil, or_false] at hw
  rcases hw with rfl | rfl | rfl | rfl | rfl | rfl | rfl | rfl | rfl | rfl | rfl
  · exact lowBits_setWidth (Nat.le_refl 1) _
  · exact lowBits_setWidth (Nat.le_refl 16) _
  · exact lowBits_setWidth (Nat.le_refl 16) _
  · exact lowBits_setWidth (Nat.le_refl 16) _
  · exact lowBits_setWidth (Nat.le_refl 16) _
  · exact lowBits_setWidth (show 1 ≤ 16 by decide) _
  · rfl
  · exact lowBits_lowBits _ _
  · exact lowBits_lowBits _ _
  · exact lowBits_setWidth (Nat.le_refl 2) _
  · exact lowBits_setWidth (Nat.le_refl 3) _

theorem updateWrites_addr {ps : List (Fin 4)} {w : FieldAddr × Word} (hw : w ∈ updateWrites x k n ps) :
    ∃ p, w.1 = .blk .mixUpdate k n p := by
  unfold updateWrites at hw
  split at hw
  · obtain ⟨p, _, rfl⟩ := List.mem_map.mp hw
    exact ⟨p, rfl⟩
  · cases hw

variable (hwf : Memory.wf s.conv = true)
include hwf

theorem mixerWritten_wf : Memory.wf (mixerWritten k n b x c s).conv = true := portWrites_wf _ (portWrites_wf _ hwf)

/-- A field SET_MIXER's own writes do not reach; the update pulse reads 0 whatever is written (R40). -/
theorem fieldValue_mixerWritten_other {a : FieldAddr} (ha : ∀ p ∈ span s.inp c k n b, ∀ f ∈ mixerFields, a ≠ .blk f k n p) :
    fieldValue a (mixerWritten k n b x c s) = fieldValue a s := by
  by_cases hpulse : ∃ p, a = .blk .mixUpdate k n p
  · obtain ⟨p, rfl⟩ := hpulse
    rfl
  · rw [mixerWritten, fieldValue_withInst, fieldValue_portWrites_other _ _ _ (portWrites_wf _ hwf),
      fieldValue_portWrites_other _ _ _ hwf]
    · intro w hw
      obtain ⟨p, hp, hw⟩ := List.mem_flatMap.mp hw
      obtain ⟨f, hf, heq⟩ := mem_mixerBlockWrites_addr hw
      rw [heq]
      exact ha p hp f hf
    · intro w hw heq
      obtain ⟨p, hp⟩ := updateWrites_addr hw
      exact hpulse ⟨p, heq.trans hp⟩

/-- The recomputations write no field but the FIFO widths. -/
theorem fieldValue_setMixerEffect_of_ne_fabricRate {a : FieldAddr} (ha : ∀ ch p, a ≠ .blk (.fabricRate ch) k n p) :
    fieldValue a (setMixerEffect k n b x c s) = fieldValue a (mixerWritten k n b x c s) := by
  have hwf' := mixerWritten_wf (k := k) (n := n) (b := b) (x := x) (c := c) hwf
  rw [setMixerEffect_eq]
  split
  · rw [fieldValue_fifoRecompute_other (fifoRecompute_wf hwf') (ha .obs), fieldValue_fifoRecompute_other hwf' (ha .live)]
  · rw [fieldValue_fifoRecompute_other hwf' (ha .live)]

theorem fieldValue_rateDtype_mixerWritten {p : Fin 4} (hp : p ∈ span s.inp c k n b) :
    fieldValue (.blk .rateDtype k n p) (mixerWritten k n b x c s) = (category k x.mode).bit.setWidth 32 := by
  rw [← fieldValue_setMixerEffect_of_ne_fabricRate hwf (by simp), fieldValue_rateDtype_setMixerEffect hwf hp]

theorem fieldValue_rateFactor_mixerWritten (ch : Channel) (p : Fin 4) :
    fieldValue (.blk (.rateFactor ch) k n p) (mixerWritten k n b x c s) = fieldValue (.blk (.rateFactor ch) k n p) s := by
  refine fieldValue_mixerWritten_other hwf fun q _ f hf heq => ?_
  cases heq
  cases ch <;> revert hf <;> decide

omit hwf in
/-- A state the FIFO widths are recomputed from: the physical block holds its factors, and the request's data type. -/
structure Recomputable (k : Kind) (n b : Fin 4) (cat : Category) (c : Converter) (s u : State) : Prop where
  wf : Memory.wf u.conv = true
  inp : u.inp = s.inp
  par : u.par = s.par
  factor : ∀ ch, fieldValue (.blk (.rateFactor ch) k n (phys s.inp c k n b)) u =
    fieldValue (.blk (.rateFactor ch) k n (phys s.inp c k n b)) s
  dtype : fieldValue (.blk .rateDtype k n (phys s.inp c k n b)) u = cat.bit.setWidth 32

theorem recomputable_mixerWritten : Recomputable k n b (category k x.mode) c s (mixerWritten k n b x c s) where
  wf := mixerWritten_wf hwf
  inp := by simp [mixerWritten]
  par := by simp [mixerWritten]
  factor ch := fieldValue_rateFactor_mixerWritten hwf ch _
  dtype := fieldValue_rateDtype_mixerWritten hwf (phys_mem_span ..)

namespace Recomputable

omit hwf
variable {cat : Category} {u : State} {ch : Channel} {p : Fin 4}

theorem fifoRecompute (h : Recomputable k n b cat c s u) : Recomputable k n b cat c s (fifoRecompute c k n b ch u) where
  wf := fifoRecompute_wf h.wf
  inp := by rw [fifoRecompute_inp, h.inp]
  par := by rw [fifoRecompute_par, h.par]
  factor ch := by rw [fieldValue_fifoRecompute_other h.wf (by simp), h.factor]
  dtype := by rw [fieldValue_fifoRecompute_other h.wf (by simp), h.dtype]

/-- The width recomputed (R168, R169). -/
theorem width (h : Recomputable k n b cat c s u) {f : Nat} (hp : p ∈ span s.inp c k n b)
    (hcode : factorDecode (fieldValue (.blk (.rateFactor ch) k n (phys s.inp c k n b)) s).toNat c.gen = some f) :
    fieldValue (.blk (.fabricRate ch) k n p) (Machine.fifoRecompute c k n b ch u) =
      lowBits 4 (BitVec.ofNat 32 (fifoWidth s.par f cat (s.inp.hs k n))) := by
  rw [fieldValue_fabricRate_fifoRecompute (f := f) h.wf (by rwa [h.inp, h.factor]) (by rwa [h.inp]), h.inp, h.par, h.dtype,
    dtypeOf_bit]

/-- The accesses of the recomputation. -/
theorem port (h : Recomputable k n b cat c s u) :
    (Machine.fifoRecompute c k n b ch u).port =
      u.port ++ recomputeAccesses s.par s.inp c k n b ch (fieldValue (.blk (.rateFactor ch) k n (phys s.inp c k n b)) s)
        (cat.bit.setWidth 32) := by
  rw [fifoRecompute_port, h.inp, h.par, h.factor, h.dtype]

/-- Every other field. -/
theorem other (h : Recomputable k n b cat c s u) {a : FieldAddr}
    (ha : ∀ p ∈ span s.inp c k n b, a = .blk (.fabricRate ch) k n p →
      factorDecode (fieldValue (.blk (.rateFactor ch) k n (phys s.inp c k n b)) s).toNat c.gen = none) :
    fieldValue a (Machine.fifoRecompute c k n b ch u) = fieldValue a u := by
  by_cases hcode : factorDecode (fieldValue (.blk (.rateFactor ch) k n (phys s.inp c k n b)) s).toNat c.gen = none
  · have hnone : recomputedWidth c k n b ch u = none := by simp [recomputedWidth, h.inp, h.factor, hcode]
    simp [Machine.fifoRecompute, recomputeWrites, hnone, portWrites]
  · refine fieldValue_fifoRecompute_off_span h.wf fun p hp heq => ?_
    rw [h.inp] at hp
    exact hcode (ha p hp heq)

end Recomputable

/-- A width SET_MIXER recomputes, from the factor the physical block holds and the request's data type (R168, R169). -/
theorem fieldValue_fabricRate_setMixerEffect {ch : Channel} {f : Nat} {p : Fin 4} (hp : p ∈ span s.inp c k n b)
    (hch : ch = .obs → k = .adc ∧ 3 ≤ c.gen)
    (hcode : factorDecode (fieldValue (.blk (.rateFactor ch) k n (phys s.inp c k n b)) s).toNat c.gen = some f) :
    fieldValue (.blk (.fabricRate ch) k n p) (setMixerEffect k n b x c s) =
      lowBits 4 (BitVec.ofNat 32 (fifoWidth s.par f (category k x.mode) (s.inp.hs k n))) := by
  have hwritten := recomputable_mixerWritten (k := k) (n := n) (b := b) (x := x) (c := c) hwf
  have hlive := hwritten.fifoRecompute (ch := .live)
  rw [setMixerEffect_eq]
  cases ch with
  | live =>
    split
    · rw [fieldValue_fifoRecompute_other hlive.wf (by simp), hwritten.width hp hcode]
    · exact hwritten.width hp hcode
  | obs =>
    rw [if_pos (hch rfl)]
    exact hlive.width hp hcode

theorem fieldsKept_setMixerEffect :
    FieldsKept (fun a => ∃ p ∈ span s.inp c k n b, (∃ f ∈ mixerFields, a = .blk f k n p) ∨
      (∃ ch, a = .blk (.fabricRate ch) k n p ∧ (ch = .obs → k = .adc ∧ 3 ≤ c.gen) ∧
        factorDecode (fieldValue (.blk (.rateFactor ch) k n (phys s.inp c k n b)) s).toNat c.gen ≠ none))
      s (setMixerEffect k n b x c s) := by
  intro a huntouched
  have hwritten := recomputable_mixerWritten (k := k) (n := n) (b := b) (x := x) (c := c) hwf
  have hkept : fieldValue a (mixerWritten k n b x c s) = fieldValue a s :=
    fieldValue_mixerWritten_other hwf fun p hp f hf heq => huntouched ⟨p, hp, .inl ⟨f, hf, heq⟩⟩
  have hcode (ch : Channel) (hch : ch = .obs → k = .adc ∧ 3 ≤ c.gen) (p : Fin 4) (hp : p ∈ span s.inp c k n b)
      (heq : a = .blk (.fabricRate ch) k n p) :
      factorDecode (fieldValue (.blk (.rateFactor ch) k n (phys s.inp c k n b)) s).toNat c.gen = none := by
    by_contra hsome
    exact huntouched ⟨p, hp, .inr ⟨ch, heq, hch, hsome⟩⟩
  rw [setMixerEffect_eq]
  split
  · next hobs => rw [hwritten.fifoRecompute.other (hcode .obs fun _ => hobs), hwritten.other (hcode .live nofun), hkept]
  · rw [hwritten.other (hcode .live nofun), hkept]

/-- Each write of a block is of what its field then holds. -/
theorem mixerBlockWrites_eq {p : Fin 4} (hp : p ∈ span s.inp c k n b) :
    (mixerBlockWrites s.inp s.par c k n b x s.argL p).map (fun w => PortEvent.write w.1 w.2) =
      mixerFields.map fun f => .write (.blk f k n p) (fieldValue (.blk f k n p) (setMixerEffect k n b x c s)) := by
  have hvalue (w : FieldAddr × Word) (hw : w ∈ mixerBlockWrites s.inp s.par c k n b x s.argL p) :
      PortEvent.write w.1 w.2 = .write w.1 (fieldValue w.1 (setMixerEffect k n b x c s)) := by
    obtain ⟨f, hf, heq⟩ := mem_mixerBlockWrites_addr hw
    obtain ⟨a, v⟩ := w
    obtain rfl : a = .blk f k n p := heq
    rw [fieldValue_setMixerEffect hwf hp hw, mixerBlockWrites_fit hw]
  have haddrs := congrArg (List.map fun a => PortEvent.write a (fieldValue a (setMixerEffect k n b x c s)))
    (mixerBlockWrites_addrs (i := s.inp) (par := s.par) (c := c) (k := k) (t := n) (b := b) (x := x) (a := s.argL) p)
  rw [List.map_map, List.map_map] at haddrs
  exact (List.map_congr_left hvalue).trans haddrs

/-- The middle phase field holds the word's top bit alone (R203). -/
theorem ncoPhaseMid_setMixerEffect_lt {p : Fin 4} (hp : p ∈ span s.inp c k n b) :
    (fieldValue (.blk .ncoPhaseMid k n p) (setMixerEffect k n b x c s)).toNat < 2 := by
  have hw : (FieldAddr.blk .ncoPhaseMid k n p, ((phaseWord s.argL.arg1).extractLsb' 16 1).setWidth 32) ∈
      mixerBlockWrites s.inp s.par c k n b x s.argL p := by
    simp [mixerBlockWrites, phaseArg]
  rw [fieldValue_setMixerEffect hwf hp hw, mixerBlockWrites_fit hw, BitVec.toNat_setWidth]
  exact (Nat.mod_le _ _).trans_lt ((phaseWord s.argL.arg1).extractLsb' 16 1).isLt

theorem fieldValue_mixScale_setMixerEffect {p : Fin 4} (hp : p ∈ span s.inp c k n b) :
    fieldValue (.blk .mixScale k n p) (setMixerEffect k n b x c s) = (scaleCode x.scale).setWidth 32 := by
  have hw : (FieldAddr.blk .mixScale k n p, (scaleCode x.scale).setWidth 32) ∈ mixerBlockWrites s.inp s.par c k n b x s.argL p := by
    simp [mixerBlockWrites]
  rw [fieldValue_setMixerEffect hwf hp hw, mixerBlockWrites_fit hw]

/-- R203's accesses in order. -/
theorem setMixerEffect_port :
    (setMixerEffect k n b x c s).port =
      s.port ++
        (span s.inp c k n b).flatMap (fun p =>
          mixerFields.map fun f => .write (.blk f k n p) (fieldValue (.blk f k n p) (setMixerEffect k n b x c s))) ++
        (if x.evt = .immediate then (span s.inp c k n b).map (fun p => .write (.blk .mixUpdate k n p) 1) else []) ++
        recomputeAccesses s.par s.inp c k n b .live (fieldValue (.blk (.rateFactor .live) k n (phys s.inp c k n b)) s)
          ((category k x.mode).bit.setWidth 32) ++
        (if k = .adc ∧ 3 ≤ c.gen then
          recomputeAccesses s.par s.inp c k n b .obs (fieldValue (.blk (.rateFactor .obs) k n (phys s.inp c k n b)) s)
            ((category k x.mode).bit.setWidth 32)
        else []) := by
  have hwritten := recomputable_mixerWritten (k := k) (n := n) (b := b) (x := x) (c := c) hwf
  have hpulses : (updateWrites x k n (span s.inp c k n b)).map (fun w => PortEvent.write w.1 w.2) =
      if x.evt = .immediate then (span s.inp c k n b).map (fun p => .write (.blk .mixUpdate k n p) 1) else [] := by
    unfold updateWrites
    split
    · exact spanWrites_events ..
    · rfl
  have hfields :
      ((span s.inp c k n b).flatMap (mixerBlockWrites s.inp s.par c k n b x s.argL)).map (fun w => PortEvent.write w.1 w.2) =
      (span s.inp c k n b).flatMap fun p =>
        mixerFields.map fun f => .write (.blk f k n p) (fieldValue (.blk f k n p) (setMixerEffect k n b x c s)) := by
    rw [List.map_flatMap]
    exact List.flatMap_congr fun p hp => mixerBlockWrites_eq hwf hp
  have hport := mixerWritten_port (k := k) (n := n) (b := b) (x := x) (c := c) (s := s)
  rw [hfields, hpulses] at hport
  rw [← hport]
  conv_lhs => rw [setMixerEffect_eq]
  split
  · rw [hwritten.fifoRecompute.port, hwritten.port]
  · rw [hwritten.port, List.append_nil]

end Effect

section Settles

variable {c : Converter} {k : Kind} {n b : Fin 4}

/-- R198's condition. -/
theorem quirk_iff : quirk c k n b = true ↔ k = .adc ∧ (c.gen = 1 ∨ c.gen = 2) ∧ (c.anaAt k n b).cal = .mode1 := by
  simp [quirk, quirkMixGens, and_assoc]

theorem category_bit (cat : Category) : cat.bit.setWidth 32 = if cat = .iq then 1 else 0 := by
  cases cat <;> rfl

/-- Settles O39. -/
theorem setMixerProgramsSpan : Obligations.SetMixerProgramsSpan := by
  refine ⟨fun w x => settingsOf_eq_some, by decide, ⟨rfl, rfl, rfl, rfl, rfl⟩,
    fun c k n b => ⟨fun h => if_pos h, fun h => if_neg h, quirk_iff⟩, ?programs⟩
  case programs =>
    intro k tl n b s c x cat hwf hc htl ht hb hp hset hbypass hoff hfine hcoarse hevt hlow hhigh hfreq hcat
    have hchecks : mixerChecks s c k n b s.argL = .ok x :=
      mixerChecks_eq_ok hset hbypass (consistent_iff.mpr ⟨hoff, hfine, hcoarse⟩) (eventOk_iff.mpr hevt) ⟨hlow, hhigh⟩ hfreq
    obtain rfl : category k x.mode = cat := (category_eq k x.mode).trans hcat.symm
    obtain ⟨hposted, hframe, hresults, hlog⟩ :=
      (onlyConverter_setMixerEffect (k := k) (n := n) (b := b) (x := x) (c := c) (s := s)).posted
    have hblk : (c.setBlk k n b (persistedBlk (c.blkAt k n b) k x s.argL)).blkAt k n b =
        persistedBlk (c.blkAt k n b) k x s.argL := by
      rw [setBlk_blkAt, if_pos ⟨rfl, rfl, rfl⟩]
    refine ⟨_, _, exec_setMixer_of hc (tileOf_of_toNat htl) (available_ok.mpr ⟨ht, hb, hp⟩) hchecks, hposted, hframe, hresults, hlog,
      setMixerEffect_inst, ?_⟩
    rw [hblk]
    simp only [fieldValue_postOk, ← category_bit]
    refine ⟨trivial, rfl, rfl, rfl, rfl, rfl, rfl, rfl, rfl, rfl, rfl, rfl, rfl, rfl, fun p hp => ?fields,
      fieldsKept_setMixerEffect hwf, setMixerEffect_port hwf⟩
    case fields =>
      refine ⟨fieldValue_rateDtype_setMixerEffect hwf hp, freqWordAt_setMixerEffect hwf hp, phaseWordAt_setMixerEffect hwf hp, ?mid,
        fieldValue_ncoPhaseUpp_setMixerEffect hwf hp,
        Prod.ext (fieldValue_mixCoarse_setMixerEffect hwf hp) (fieldValue_mixFine_setMixerEffect hwf hp), ?scale,
        fieldValue_mixEvt_setMixerEffect hwf hp, fun ch f hch hcode => fieldValue_fabricRate_setMixerEffect hwf hp hch hcode⟩
      case mid => exact ncoPhaseMid_setMixerEffect_lt hwf hp
      case scale => exact fieldValue_mixScale_setMixerEffect hwf hp

end Settles

end Sys2Proof.Machine
end

section
/-! PROOFS. GET_MIXER: what it posts, and that after SET_MIXER it posts the request (44_mixer_nco.md section 2, R209 to R212). -/

namespace Sys2Proof.Machine

section Settings

variable {x : Settings}

/-! The settings word's layout (R87). -/

theorem type_settingsWord : (settingsWord x).extractLsb' 0 2 = typeCode x.type := by
  simp (disch := decide) only [settingsWord, BitVec.extractLsb'_append_eq_of_add_le]
  exact BitVec.extractLsb'_eq_self

theorem mode_settingsWord : (settingsWord x).extractLsb' 2 3 = modeCode x.mode := by
  simp (disch := decide) only [settingsWord, BitVec.extractLsb'_append_eq_of_add_le, BitVec.extractLsb'_append_eq_of_le]
  exact BitVec.extractLsb'_eq_self

theorem sel_settingsWord : (settingsWord x).extractLsb' 5 3 = selCode x.sel := by
  simp (disch := decide) only [settingsWord, BitVec.extractLsb'_append_eq_of_add_le, BitVec.extractLsb'_append_eq_of_le]
  exact BitVec.extractLsb'_eq_self

theorem evt_settingsWord : (settingsWord x).extractLsb' 8 3 = evtCode x.evt := by
  simp (disch := decide) only [settingsWord, BitVec.extractLsb'_append_eq_of_add_le, BitVec.extractLsb'_append_eq_of_le]
  exact BitVec.extractLsb'_eq_self

theorem scale_settingsWord : (settingsWord x).extractLsb' 11 2 = scaleCode x.scale := by
  simp (disch := decide) only [settingsWord, BitVec.extractLsb'_append_eq_of_add_le, BitVec.extractLsb'_append_eq_of_le]
  exact BitVec.extractLsb'_eq_self

theorem reserved_settingsWord : (settingsWord x).extractLsb' 13 19 = 0#19 := by
  simp (disch := decide) only [settingsWord, BitVec.extractLsb'_append_eq_of_le]
  exact BitVec.extractLsb'_eq_self

theorem settings_ext {y : Settings} (htype : x.type = y.type) (hmode : x.mode = y.mode) (hsel : x.sel = y.sel) (hevt : x.evt = y.evt)
    (hscale : x.scale = y.scale) : x = y := by
  cases x
  cases y
  simp_all

theorem swapSel_swapSel (sl : CoarseSel) : swapSel (swapSel sl) = sl := by
  cases sl <;> rfl

/-- An event code is none's exactly from 5 (R91). -/
theorem evtOf_eq_none {v : BitVec 3} : evtOf v = none ↔ 5 ≤ v.toNat := by
  revert v
  decide

/-- A scale code is none's exactly at 3 (R92). -/
theorem scaleOf_eq_none {v : BitVec 2} : scaleOf v = none ↔ v = 3 := by
  revert v
  decide

end Settings

section Posts

variable {k : Kind} {tl : BitVec 3} {n b p : Fin 4} {s : State} {c : Converter}

theorem exec_getMixer_of (hc : s.inst = some c) (htl : tileOf tl = some n) (havail : available s.inp k n b = .ok ()) :
    exec (.getMixer k tl b) s = finish s (getMixerRule k b s c n) := by
  change finish s (onBlock s k tl b _) = _
  rw [onBlock_of _ hc htl havail]

/-- The field pair's unique preimage is what is reported (R211). -/
theorem reportedSettings_of_decode {ty : MixType} {md : MixMode} {sl : CoarseSel}
    (hdec : mixerDec s.par (fieldValue (.blk .mixCoarse k n (phys s.inp c k n b)) s)
      (fieldValue (.blk .mixFine k n (phys s.inp c k n b)) s) (s.inp.hs k n) ((phys s.inp c k n b).val % 2 == 1) = some (ty, md, sl)) :
    (reportedSettings c k n b s).type = ty ∧ (reportedSettings c k n b s).mode = md ∧
      (reportedSettings c k n b s).sel = if quirk c k n b then swapSel sl else sl := by
  simp [reportedSettings, hdec]

/-- With no unique preimage the persisted settings are (R211). -/
theorem reportedSettings_of_no_decode
    (hdec : mixerDec s.par (fieldValue (.blk .mixCoarse k n (phys s.inp c k n b)) s)
      (fieldValue (.blk .mixFine k n (phys s.inp c k n b)) s) (s.inp.hs k n) ((phys s.inp c k n b).val % 2 == 1) = none) :
    (reportedSettings c k n b s).type = (c.blkAt k n b).mix.type ∧ (reportedSettings c k n b s).mode = (c.blkAt k n b).mix.mode ∧
      (reportedSettings c k n b s).sel = (c.blkAt k n b).mix.sel := by
  simp only [reportedSettings, hdec]
  refine ⟨trivial, trivial, ?_⟩
  split
  · exact swapSel_swapSel _
  · rfl

theorem reportedSettings_evt {ev : EventSrc}
    (hevt : evtOf ((fieldValue (.blk .mixEvt k n (phys s.inp c k n b)) s).extractLsb' 0 3) = some ev) :
    (reportedSettings c k n b s).evt = ev := by
  simp [reportedSettings, hevt]

theorem reportedSettings_evt_persisted
    (hevt : evtOf ((fieldValue (.blk .mixEvt k n (phys s.inp c k n b)) s).extractLsb' 0 3) = none) :
    (reportedSettings c k n b s).evt = (c.blkAt k n b).mix.evt := by
  simp [reportedSettings, hevt]

theorem reportedSettings_scale {sc : MixScale}
    (hscale : scaleOf ((fieldValue (.blk .mixScale k n (phys s.inp c k n b)) s).extractLsb' 0 2) = some sc) :
    (reportedSettings c k n b s).scale = sc := by
  simp [reportedSettings, hscale]

theorem reportedSettings_scale_persisted
    (hscale : scaleOf ((fieldValue (.blk .mixScale k n (phys s.inp c k n b)) s).extractLsb' 0 2) = none) :
    (reportedSettings c k n b s).scale = (c.blkAt k n b).mix.scale := by
  simp [reportedSettings, hscale]

/-- Settles O45. -/
theorem getMixerPosts : Obligations.GetMixerPosts := by
  rintro k tl n b p s c hc htl ht hb hpath rfl
  rw [exec_getMixer_of hc (tileOf_of_toNat htl) (available_ok.mpr ⟨ht, hb, hpath⟩), getMixerRule, portReads_eq]
  refine ⟨_, rfl, .of_overrun rfl, (EngineFrame.rule s ..).trans (.postOk _), rfl, rfl, rfl, extractLsb'_halves_64 _, rfl, rfl,
    fun ty md sl hdec => ?decoded, fun hdec => ?persisted, fun hevt => ?event, fun hevt => ?eventPersisted,
    fun hscale => ?scale, fun hscale => ?scalePersisted, reserved_settingsWord, rfl⟩
  case decoded =>
    obtain ⟨htype, hmode, hsel⟩ := reportedSettings_of_decode hdec
    exact ⟨type_settingsWord.trans (congrArg _ htype), mode_settingsWord.trans (congrArg _ hmode),
      sel_settingsWord.trans (congrArg _ hsel)⟩
  case persisted =>
    obtain ⟨htype, hmode, hsel⟩ := reportedSettings_of_no_decode hdec
    exact ⟨type_settingsWord.trans (congrArg _ htype), mode_settingsWord.trans (congrArg _ hmode),
      sel_settingsWord.trans (congrArg _ hsel)⟩
  case event =>
    obtain ⟨ev, hev⟩ := Option.ne_none_iff_exists'.mp fun hnone =>
      absurd (evtOf_eq_none.mp hnone) (Nat.not_le.mpr (Nat.lt_succ_of_le hevt))
    exact evt_settingsWord.trans ((congrArg _ (reportedSettings_evt hev)).trans (evtOf_eq_some.mp hev).symm)
  case eventPersisted => exact evt_settingsWord.trans (congrArg _ (reportedSettings_evt_persisted (evtOf_eq_none.mpr hevt)))
  case scale =>
    obtain ⟨sc, hsc⟩ := Option.ne_none_iff_exists'.mp fun hnone => hscale (scaleOf_eq_none.mp hnone)
    exact scale_settingsWord.trans ((congrArg _ (reportedSettings_scale hsc)).trans (scaleOf_eq_some.mp hsc).symm)
  case scalePersisted => exact scale_settingsWord.trans (congrArg _ (reportedSettings_scale_persisted (scaleOf_eq_none.mpr hscale)))

end Posts

section DefaultTable

/-- The default table's entry for each type, mode and selector (R204(a), R205). -/
def defaultEntry (y : MixType × MixMode × CoarseSel) : Word × Word :=
  if y.1 = .off then (0, 0) else (lowBits 3 ((selCode y.2.2).setWidth 32), lowBits 7 (fineDefault y.1 y.2.1))

theorem mixerEnc_eq_defaultEntry {par : Params} {ty : MixType} {md : MixMode} {sl : CoarseSel} {hs odd : Bool}
    (hdef : DefaultMixerTable par) : mixerEnc par ty md sl hs odd = defaultEntry (ty, md, sl) := by
  by_cases hty : ty = .off
  · subst hty
    simp [mixerEnc, mixerEntry, defaultEntry, hdef.coarseOff, hdef.fineOff, lowBits]
  · rw [mixerEnc_default hdef hty, defaultEntry, if_neg hty]

/-- In the default table an entry has one preimage. -/
theorem defaultEntry_unique :
    ∀ y ∈ mixerKeys, (mixerKeys.filter fun z => defaultEntry z == defaultEntry y) = [y] := by
  decide

/-- The default table run backwards gives back the settings, with type OFF read as selector OFF (R211; log entry 8). -/
theorem mixerDec_mixerEnc {par : Params} {ty : MixType} {md : MixMode} {sl : CoarseSel} {hs odd : Bool}
    (hdef : DefaultMixerTable par) (hoff : ty = .off ↔ md = .off) :
    mixerDec par (mixerEnc par ty md sl hs odd).1 (mixerEnc par ty md sl hs odd).2 hs odd =
      some (ty, md, if ty = .off then .off else sl) := by
  have hkey : (ty, md, if ty = .off then CoarseSel.off else sl) ∈ mixerKeys := by
    cases ty with
    | off =>
      obtain rfl := hoff.mp rfl
      simp [mixerKeys]
    | coarse => cases md <;> cases sl <;> decide
    | fine => cases md <;> cases sl <;> decide
  have hentry : mixerEnc par ty md sl hs odd = defaultEntry (ty, md, if ty = .off then CoarseSel.off else sl) := by
    rw [mixerEnc_eq_defaultEntry hdef]
    by_cases hty : ty = .off
    · simp [defaultEntry, hty]
    · rw [if_neg hty]
  unfold mixerDec
  simp only [mixerEnc_eq_defaultEntry hdef, Prod.mk.eta] at hentry ⊢
  rw [hentry, defaultEntry_unique _ hkey]

end DefaultTable

section RoundTrip

variable {k : Kind} {tl : BitVec 3} {n b : Fin 4} {s t u : State} {c e : Converter} {x : Settings}

/-- A SET_MIXER that succeeds found its block available and its checks passed, and left its effect, posted (R190). -/
theorem setMixer_success (hc : s.inst = some c) (htl : tl.toNat = n.val) (hset : settingsOf s.argL.arg2 = some x)
    (hexec : exec (.setMixer k tl b) s = .next t) (herr : t.status.err = 0) :
    available s.inp k n b = .ok () ∧ consistent x = true ∧ 4 * |(freqArg s.argL).toInt| ≤ (halfRate c k n b : Int) ∧
      t = postOk (setMixerEffect k n b x c s) := by
  change execSetMixer k tl b s = _ at hexec
  have hok := eq_ok_of_finish hexec herr
  have hrule : setMixerRule k b s c n = .ok t := rule_of_onBlock_eq_ok hc htl hok
  unfold setMixerRule at hrule
  rcases mixerChecks_cases s c k n b s.argL with ⟨e, he, _⟩ | ⟨y, hy, hset', _, hcons, _, _, hfreq⟩
  · cases he ▸ hrule
  · obtain rfl : x = y := Option.some.inj (hset.symm.trans hset')
    rw [hy] at hrule
    exact ⟨available_of_onBlock_eq_ok htl hok, hcons, hfreq, (Except.ok.inj hrule).symm⟩

/-- The physical block is where it was if the block's pairing is. -/
theorem phys_congr {i : Inputs} (h : (e.blkAt k n b).connQ = (c.blkAt k n b).connQ) : phys i e k n b = phys i c k n b := by
  unfold phys iqPaired
  rw [h]

theorem halfRate_congr (hfs : (e.tileAt k n).fs = (c.tileAt k n).fs) (hmode : (e.blkAt k n b).dpMode = (c.blkAt k n b).dpMode) :
    halfRate e k n b = halfRate c k n b := by
  simp [halfRate, hfs, hmode]

theorem quirk_congr (hgen : e.gen = c.gen) (hana : e.anaAt k n b = c.anaAt k n b) : quirk e k n b = quirk c k n b := by
  simp [quirk, hgen, hana]

/-- From fields that hold what SET_MIXER encoded, the settings reported are those requested; type OFF reads selector OFF (R211). -/
theorem reportedSettings_of_setMixer (htable : DefaultMixerTable s.par) (hcons : consistent x = true)
    (hinp : u.inp = s.inp) (hpar : u.par = s.par) (hphys : phys s.inp e k n b = phys s.inp c k n b)
    (hquirk : quirk e k n b = quirk c k n b)
    (hcoarse : fieldValue (.blk .mixCoarse k n (phys s.inp c k n b)) u =
      (mixerEnc s.par x.type x.mode (encodedSel c k n b x.sel) (s.inp.hs k n) ((phys s.inp c k n b).val % 2 == 1)).1)
    (hfine : fieldValue (.blk .mixFine k n (phys s.inp c k n b)) u =
      (mixerEnc s.par x.type x.mode (encodedSel c k n b x.sel) (s.inp.hs k n) ((phys s.inp c k n b).val % 2 == 1)).2)
    (hevt : fieldValue (.blk .mixEvt k n (phys s.inp c k n b)) u = (evtCode x.evt).setWidth 32)
    (hscale : fieldValue (.blk .mixScale k n (phys s.inp c k n b)) u = (scaleCode x.scale).setWidth 32) :
    reportedSettings e k n b u = { x with sel := if x.type = .off then .off else x.sel } := by
  have hdec := mixerDec_mixerEnc (par := s.par) (ty := x.type) (md := x.mode) (sl := encodedSel c k n b x.sel) (hs := s.inp.hs k n)
    (odd := (phys s.inp c k n b).val % 2 == 1) htable (consistent_iff.mp hcons).1
  rw [← hcoarse, ← hfine, ← hphys, ← hinp, ← hpar] at hdec
  rw [← hphys, ← hinp] at hevt hscale
  obtain ⟨htype, hmode, hsel⟩ := reportedSettings_of_decode hdec
  have hev := reportedSettings_evt (c := e)
    (evtOf_eq_some.mpr (hevt ▸ extractLsb'_setWidth_self (by decide) (evtCode x.evt)))
  have hsc := reportedSettings_scale (c := e)
    (scaleOf_eq_some.mpr (hscale ▸ extractLsb'_setWidth_self (by decide) (scaleCode x.scale)))
  have hback : (reportedSettings e k n b u).sel = if x.type = .off then .off else x.sel := by
    rw [hsel, hquirk, encodedSel]
    split_ifs
    · rfl
    · exact swapSel_swapSel _
    · rfl
    · rfl
  exact settings_ext htype hmode hback hev hsc

/-- Settles O46: the fields hold what SET_MIXER encoded, and what GET_MIXER decodes them with is as it was. -/
theorem mixerRoundTrip : Obligations.MixerRoundTrip := by
  intro k tl n b s t u c d e x hwf htable hc htl hpos hsmall hset hexec herr hd he hinp hpar hgen hfs hana hblk hfields
  obtain ⟨havail, hcons, hfreq, rfl⟩ := setMixer_success hc htl hset hexec herr
  have hrec : e.blkAt k n b = persistedBlk (c.blkAt k n b) k x s.argL := by
    obtain rfl := Option.some.inj (setMixerEffect_inst.symm.trans hd)
    rw [hblk, setBlk_blkAt, if_pos ⟨rfl, rfl, rfl⟩]
  have hphys : phys s.inp e k n b = phys s.inp c k n b := phys_congr (by rw [hrec]; rfl)
  have hhalf : halfRate e k n b = halfRate c k n b := halfRate_congr hfs (by rw [hrec]; rfl)
  have hquirk : quirk e k n b = quirk c k n b := quirk_congr hgen hana
  have hspan := phys_mem_span s.inp c k n b
  have hsettings : reportedSettings e k n b u = { x with sel := if x.type = .off then .off else x.sel } :=
    reportedSettings_of_setMixer htable hcons hinp hpar hphys hquirk
      ((hfields .mixCoarse).trans (fieldValue_mixCoarse_setMixerEffect hwf hspan))
      ((hfields .mixFine).trans (fieldValue_mixFine_setMixerEffect hwf hspan))
      ((hfields .mixEvt).trans (fieldValue_mixEvt_setMixerEffect hwf hspan))
      ((hfields .mixScale).trans (fieldValue_mixScale_setMixerEffect hwf hspan))
  have hword : freqWordAt k n (phys s.inp c k n b) u = setFreqWord c k n b s.argL := by
    rw [← freqWordAt_setMixerEffect (x := x) hwf hspan, freqWordAt, hfields, hfields, hfields]
    rfl
  have hphase : phaseWordAt k n (phys s.inp c k n b) u = phaseWord s.argL.arg1 := by
    rw [← phaseWordAt_setMixerEffect (x := x) hwf hspan, phaseWordAt, hfields, hfields]
    rfl
  have hdenorm : reportedFreq e k n b u =
      if 4 * (freqArg s.argL).toInt = (halfRate c k n b : Int) ∧ quirk c k n b = false then -(freqArg s.argL).toInt
      else (freqArg s.argL).toInt := by
    rw [reportedFreq, hinp, hphys, hword, hhalf, hquirk, hana, hrec]
    exact frequencyRoundTrip _ _ _ _ hpos hsmall hfreq
  rw [exec_getMixer_of he (tileOf_of_toNat htl) (hinp ▸ havail)]
  refine ⟨_, rfl, rfl, (extractLsb'_halves_64 _).trans ?freq, ?phase, ?settings⟩
  case freq =>
    rw [hdenorm]
    split
    · rw [BitVec.ofInt_neg, BitVec.ofInt_toInt]
    · rw [BitVec.ofInt_toInt]
  case phase =>
    change BitVec.ofInt 32 (phaseRead (phaseWordAt k n (phys u.inp e k n b) u)) = _
    rw [hinp, hphys, hphase]
  case settings => exact congrArg settingsWord hsettings

end RoundTrip

end Sys2Proof.Machine
end

section
/-! PROOFS. On a high-speed ADC tile an unpaired block 1 acts as block 2 (R176(f), R218). -/

namespace Sys2Proof.Machine

/-- `u` is `s` but for the converter record. -/
def OnlyRecord (s u : State) : Prop := ∃ x, u = { s with inst := x }

namespace OnlyRecord

variable {s u v : State}

theorem refl (s : State) : OnlyRecord s s := ⟨s.inst, rfl⟩

theorem withInst (x : Option Converter) (h : OnlyRecord s u) : OnlyRecord s { u with inst := x } := by
  obtain ⟨_, rfl⟩ := h
  exact ⟨x, rfl⟩

theorem inst_left (x : Option Converter) (h : OnlyRecord s u) : OnlyRecord { s with inst := x } u := by
  obtain ⟨y, rfl⟩ := h
  exact ⟨y, rfl⟩

/-- The same writes on both leave them the same but for the record. -/
theorem portWrites (ws : List (FieldAddr × Word)) (h : OnlyRecord s u) : OnlyRecord (portWrites ws s) (portWrites ws u) := by
  obtain ⟨x, rfl⟩ := h
  rw [portWrites_eq, portWrites_eq]
  exact ⟨x, rfl⟩

theorem postOk (h : OnlyRecord s u) : OnlyRecord (postOk s) (postOk u) := by
  obtain ⟨x, rfl⟩ := h
  exact ⟨x, rfl⟩

theorem conv (h : OnlyRecord s u) : s.conv = u.conv := by
  obtain ⟨_, rfl⟩ := h
  rfl

theorem status (h : OnlyRecord s u) : s.status = u.status := by
  obtain ⟨_, rfl⟩ := h
  rfl

theorem port (h : OnlyRecord s u) : s.port = u.port := by
  obtain ⟨_, rfl⟩ := h
  rfl

theorem inp (h : OnlyRecord s u) : s.inp = u.inp := by
  obtain ⟨_, rfl⟩ := h
  rfl

end OnlyRecord

section Alias

variable {k : Kind} {tl : BitVec 3} {n b b' : Fin 4} {s u : State} {c : Converter} {ch : Channel}
  (hphys : phys s.inp c k n b = phys s.inp c k n b')
include hphys

theorem span_congr : span s.inp c k n b = span s.inp c k n b' := by
  simp only [span, hphys]

theorem fifoRecompute_alias (h : OnlyRecord s u) : OnlyRecord (fifoRecompute c k n b ch s) (fifoRecompute c k n b' ch u) := by
  obtain ⟨x, rfl⟩ := h
  have hspan := span_congr hphys
  rw [fifoRecompute_eq, fifoRecompute_eq]
  refine ⟨x, ?_⟩
  simp [recomputeWrites, recomputeReads, recomputedWidth, hphys, hspan]

theorem setRateEffect_alias (f : Nat) : OnlyRecord (setRateEffect k n b ch f c s) (setRateEffect k n b' ch f c s) := by
  have hwritten : OnlyRecord (factorWritten k n b ch f c s) (factorWritten k n b' ch f c s) := by
    rw [factorWritten, factorWritten, span_congr hphys]
    exact ((OnlyRecord.refl _).withInst _).inst_left _
  rw [setRateEffect_eq, setRateEffect_eq, span_congr hphys]
  exact (fifoRecompute_alias (by rwa [factorWritten_inp]) hwritten).portWrites _

theorem getRateRule_alias : getRateRule k b ch s c n = getRateRule k b' ch s c n := by
  simp only [getRateRule, hphys]

end Alias

section Block

variable {tl : BitVec 3} {n b b' : Fin 4} {s u : State} {c : Converter} {x : Settings}
  (hphys : phys s.inp c .adc n b = phys s.inp c .adc n b')

/-- On an ADC the checks do not depend on the block (R192 to R196). -/
theorem mixerChecks_alias (a : ArgLatch) : mixerChecks s c .adc n b a = mixerChecks s c .adc n b' a := by
  simp [mixerChecks, halfRate]

theorem halfRate_adc : halfRate c .adc n b = halfRate c .adc n b' := by
  simp [halfRate]

variable (hana : c.anaAt .adc n b = c.anaAt .adc n b')
include hana

theorem quirk_alias : quirk c .adc n b = quirk c .adc n b' := by
  simp only [quirk, hana]

theorem zoneFlip_alias (par : Params) : zoneFlip par c .adc n b = zoneFlip par c .adc n b' := by
  simp only [zoneFlip, hana]

theorem mixerBlockWrites_alias (i : Inputs) (par : Params) (x : Settings) (a : ArgLatch) :
    mixerBlockWrites i par c .adc n b x a = mixerBlockWrites i par c .adc n b' x a := by
  funext p
  simp only [mixerBlockWrites, setFreqWord, encodedSel, quirk_alias hana, hana, halfRate_adc (b := b) (b' := b')]

include hphys

theorem setMixerEffect_alias : OnlyRecord (setMixerEffect .adc n b x c s) (setMixerEffect .adc n b' x c s) := by
  have hwritten : OnlyRecord (mixerWritten .adc n b x c s) (mixerWritten .adc n b' x c s) := by
    rw [mixerWritten, mixerWritten, span_congr hphys, mixerBlockWrites_alias hana]
    exact ((OnlyRecord.refl _).withInst _).inst_left _
  have hinp : (mixerWritten .adc n b x c s).inp = s.inp := by simp [mixerWritten]
  have hlive := fifoRecompute_alias (c := c) (b := b) (b' := b') (ch := .live) (hinp.symm ▸ hphys) hwritten
  rw [setMixerEffect_eq, setMixerEffect_eq]
  split
  · exact fifoRecompute_alias (by rwa [fifoRecompute_inp, hinp]) hlive
  · exact hlive

theorem setNyquistEffect_alias (z : Zone) : OnlyRecord (setNyquistEffect .adc n b z c s) (setNyquistEffect .adc n b' z c s) := by
  rw [setNyquistEffect_eq, setNyquistEffect_eq, span_congr hphys]
  have hzone : hardwareZone s.par c .adc n b z = hardwareZone s.par c .adc n b' z := by
    rw [hardwareZone, hardwareZone, zoneFlip_alias hana]
  rw [hzone]
  exact (((OnlyRecord.refl s).withInst _).inst_left _).portWrites _

theorem getNyquistRule_alias : getNyquistRule .adc b s c n = getNyquistRule .adc b' s c n := by
  have hzone : reportedZone c .adc n b s = reportedZone c .adc n b' s := by
    rw [reportedZone, reportedZone, zoneFlip_alias hana, hphys]
  rw [getNyquistRule, getNyquistRule, hzone, hphys]

/-- With the fields standing for settings of their own and an equal persisted frequency, GET_MIXER reports the same (R176(f)). -/
theorem getMixerRule_alias (hfreq : (c.blkAt .adc n b).mix.freq = (c.blkAt .adc n b').mix.freq)
    (hdec : mixerDec s.par (fieldValue (.blk .mixCoarse .adc n (phys s.inp c .adc n b')) s)
      (fieldValue (.blk .mixFine .adc n (phys s.inp c .adc n b')) s) (s.inp.hs .adc n) ((phys s.inp c .adc n b').val % 2 == 1) ≠ none)
    (hevt : evtOf ((fieldValue (.blk .mixEvt .adc n (phys s.inp c .adc n b')) s).extractLsb' 0 3) ≠ none)
    (hscale : scaleOf ((fieldValue (.blk .mixScale .adc n (phys s.inp c .adc n b')) s).extractLsb' 0 2) ≠ none) :
    getMixerRule .adc b s c n = getMixerRule .adc b' s c n := by
  obtain ⟨y, hy⟩ := Option.ne_none_iff_exists'.mp hdec
  obtain ⟨ev, hev⟩ := Option.ne_none_iff_exists'.mp hevt
  obtain ⟨sc, hsc⟩ := Option.ne_none_iff_exists'.mp hscale
  have hsettings : reportedSettings c .adc n b s = reportedSettings c .adc n b' s := by
    simp only [reportedSettings, hphys, hy, hev, hsc, quirk_alias hana]
  have hreported : reportedFreq c .adc n b s = reportedFreq c .adc n b' s := by
    simp only [reportedFreq, hphys, quirk_alias hana, hana, hfreq, halfRate_adc (b := b) (b' := b')]
  simp only [getMixerRule, hsettings, hreported, hphys]

end Block

section Settles

/-- An unpaired odd block of a high-speed tile goes where block 2 does (R36). -/
theorem phys_one_eq_two {i : Inputs} {c : Converter} {n : Fin 4} (hhs : i.hs .adc n = true) (hpair : (c.blkAt .adc n 1).connQ = none) :
    phys i c .adc n 1 = 2 ∧ phys i c .adc n 2 = 2 :=
  ⟨phys_of_unpaired_odd hhs rfl (by simp [iqPaired, hpair]), phys_of_even rfl⟩

section Outcomes

variable {s t u : State}

/-- A command's outcomes on the two blocks, where only the record may differ. -/
theorem finish_onlyRecord (h : OnlyRecord t u) :
    ∃ t' u', finish s (.ok t) = .next t' ∧ finish s (.ok u) = .next u' ∧ t'.conv = u'.conv ∧ t'.status = u'.status ∧
      t'.port = u'.port :=
  ⟨t, u, rfl, rfl, h.conv, h.status, h.port⟩

theorem finish_error_same (e : Err) :
    ∃ t' u', finish s (.error e) = .next t' ∧ finish s (.error e) = .next u' ∧ t'.conv = u'.conv ∧ t'.status = u'.status ∧
      t'.port = u'.port :=
  ⟨_, _, rfl, rfl, rfl, rfl, rfl⟩

/-- A command's outcome always answers a next state. -/
theorem finish_answers (s : State) (r : Except Err State) : ∃ t, finish s r = .next t := by
  cases r with
  | error e => exact ⟨_, rfl⟩
  | ok t => exact ⟨t, rfl⟩

end Outcomes

theorem exec_setMixer_of_available {k : Kind} {tl : BitVec 3} {n b : Fin 4} {s : State} {c : Converter} (hc : s.inst = some c)
    (htl : tileOf tl = some n) (havail : available s.inp k n b = .ok ()) :
    exec (.setMixer k tl b) s = finish s (setMixerRule k b s c n) := by
  change finish s (onBlock s k tl b _) = _
  rw [onBlock_of _ hc htl havail]

theorem exec_getNyquist_of_available {k : Kind} {tl : BitVec 3} {n b : Fin 4} {s : State} {c : Converter} (hc : s.inst = some c)
    (htl : tileOf tl = some n) (havail : available s.inp k n b = .ok ()) :
    exec (.getNyquist k tl b) s = finish s (getNyquistRule k b s c n) := by
  change finish s (onBlock s k tl b _) = _
  rw [onBlock_of _ hc htl havail]

theorem exec_setNyquist_of_tile {k : Kind} {tl : BitVec 3} {n b : Fin 4} {z : BitVec 2} {s : State} {c : Converter}
    (hc : s.inst = some c) (htl : tileOf tl = some n) : exec (.setNyquist k tl b z) s = finish s (setNyquistRule k b z s c n) := by
  change finish s (onTile s tl _) = _
  rw [onTile_of _ hc htl]

/-- Settles O32: the two blocks have one physical block and one span, and the commands depend on nothing else of the block. -/
theorem highSpeedAliasMatchesBlockTwo : Obligations.HighSpeedAliasMatchesBlockTwo := by
  intro tl n ch f z s c hc htl hhs hpair ht hb1 hb2 hp1 hp2
  have htile := tileOf_of_toNat htl
  have havail1 : available s.inp .adc n 1 = .ok () := available_ok.mpr ⟨ht, hb1, hp1⟩
  have havail2 : available s.inp .adc n 2 = .ok () := available_ok.mpr ⟨ht, hb2, hp2⟩
  obtain ⟨hphys1, hphys2⟩ := phys_one_eq_two hhs hpair
  have hphys : phys s.inp c .adc n 1 = phys s.inp c .adc n 2 := hphys1.trans hphys2.symm
  refine ⟨?getRate, ?setRate, fun hana => ⟨?setMixer, ?setNyquist, ?getNyquist, fun hfreq hdec hevt hscale => ?getMixer⟩⟩
  case getRate =>
    rw [exec_getRate_of_available hc htile havail1, exec_getRate_of_available hc htile havail2, getRateRule_alias hphys]
    obtain ⟨t, ht⟩ := finish_answers s (getRateRule .adc 2 ch s c n)
    exact ⟨t, t, ht, ht, rfl, rfl, rfl⟩
  case setRate =>
    rw [exec_setRate_of_available hc htile havail1, exec_setRate_of_available hc htile havail2, setRateRule, setRateRule]
    split_ifs
    · exact finish_error_same _
    · exact finish_error_same _
    · exact finish_onlyRecord (setRateEffect_alias hphys _).postOk
  case setMixer =>
    rw [exec_setMixer_of_available hc htile havail1, exec_setMixer_of_available hc htile havail2, setMixerRule, setMixerRule,
      mixerChecks_alias (b := 1) (b' := 2)]
    cases mixerChecks s c .adc n 2 s.argL with
    | error e => exact finish_error_same e
    | ok x => exact finish_onlyRecord (setMixerEffect_alias hphys hana).postOk
  case setNyquist =>
    rw [exec_setNyquist_of_tile hc htile, exec_setNyquist_of_tile hc htile, setNyquistRule, setNyquistRule, havail1, havail2]
    cases zoneOf z with
    | none => exact finish_error_same _
    | some zone => exact finish_onlyRecord (setNyquistEffect_alias hphys hana zone).postOk
  case getNyquist =>
    rw [exec_getNyquist_of_available hc htile havail1, exec_getNyquist_of_available hc htile havail2,
      getNyquistRule_alias hphys hana]
    exact ⟨_, _, rfl, rfl, rfl, rfl, rfl⟩
  case getMixer =>
    rw [exec_getMixer_of hc htile havail1, exec_getMixer_of hc htile havail2,
      getMixerRule_alias hphys hana hfreq (by rwa [hphys2, hhs]) (by rwa [hphys2, Ne, evtOf_eq_none, Nat.not_le, Nat.lt_succ_iff])
        (by rwa [hphys2, Ne, scaleOf_eq_none])]
    exact ⟨_, _, rfl, rfl, rfl, rfl, rfl, rfl, rfl, rfl⟩

end Settles

end Sys2Proof.Machine
end
